-- ==== Sys2Proof/Word.lean ====
section
/-! DEFINITION. The word types of SNESoIP-CORE: every value a port or a register carries whole (R14, R35, R36). -/

namespace Sys2Proof

/-- A 16-bit frame or stable state: an InputFrame and the StableInputState (R18, R20). -/
abbrev Word16 := BitVec 16

/-- A 17-bit OutboundFrame (R18, R20). -/
abbrev Word17 := BitVec 17

/-- The 2-bit word of the port `hcmd` (R62). -/
abbrev HcmdWord := BitVec 2

/-- The 8-bit micro-operation word (R67). -/
abbrev UopWord := BitVec 8

/-- The bit index `k` of U_SMPA and U_SMPB: an unsigned 4-bit number used as it stands (R67). -/
abbrev BitIndex := BitVec 4

end Sys2Proof
end

