-- ==== Sys2Proof/Config.lean ====
section
/-! DEFINITION. What is fixed at construction: the parameters of R8 to R11, the derived positions of R12, the
legality of R13, and the one free value of the model. -/

namespace Sys2Proof

/-- `FRAME_BITS` (R9). DEDUCED: fixed, since R20 fixes the widths it counts (log entry 5). -/
abbrev frameBits : Nat := 16

/-- `AUTH_BITS` (R9): bit positions 0 to 11 are authoritative, 12 to 15 are reserved (R96). -/
abbrev authBits : Nat := 12

/-- `VOTE_DEPTH` (R10): "3, fixed". -/
abbrev voteDepth : Nat := 3

/-- `SETTLE` (R9), the document's settle time: only the ground of the default `SAMPLE_OFFSET`, read by no rule. -/
abbrev settle : Nat := 6

/-- The physical line identifiers of one bound port: an entry of `PORT_BINDING` (R11, R18). No rule reads one. -/
structure PortLines where
  pulseLine  : Nat
  sampleLine : Nat
deriving DecidableEq, Repr

/-- The construction parameters of one instance (R8 to R11). `N_PULSES` is no field: each command chooses it. -/
structure Params where
  /-- `LATCH_WIDTH` (R8). -/
  latchWidth    : Nat
  /-- `CLK_PERIOD` (R8). -/
  clkPeriod     : Nat
  /-- `CLK_LOW` (R8). -/
  clkLow        : Nat
  /-- `LATCH_CLOCK_GAP` (R8). -/
  latchClockGap : Nat
  /-- `SAMPLE_OFFSET` (R9). -/
  sampleOffset  : Nat
  /-- `REREAD_GAP` (R9). -/
  rereadGap     : Nat
  /-- `POLL_INTERVAL` (R10). -/
  pollInterval  : Nat
  /-- `PORT_BINDING` (R11): one entry for each bound port, in the order of the port index. -/
  portBinding   : List PortLines
  /-- `STABLE_RESET` (R11). -/
  stableReset   : Word16
deriving DecidableEq, Repr

/-- `N_PORTS` (R11): the number of entries of `PORT_BINDING`, "a table from port index `0 .. N_PORTS-1`". -/
def Params.nPorts (c : Params) : Nat := c.portBinding.length

/-- `T0` (R12): the first falling edge of the clock train. -/
def Params.t0 (c : Params) : Nat := c.latchWidth + c.latchClockGap

/-- `F(j)` (R12): the falling edge of clock pulse `j`. -/
def Params.fallAt (c : Params) (j : Nat) : Nat := c.t0 + j * c.clkPeriod

/-- `R(j)` (R12): the rising edge of clock pulse `j`. -/
def Params.riseAt (c : Params) (j : Nat) : Nat := c.fallAt j + c.clkLow

/-- `A(k)` (R12): the first read of bit `k`. -/
def Params.readA (c : Params) (k : Nat) : Nat := c.fallAt k + c.sampleOffset

/-- `B(k)` (R12): the second read of bit `k`. -/
def Params.readB (c : Params) (k : Nat) : Nat := c.readA k + c.rereadGap

/-- `PA` (R12): the ACCEPT position, the first tick after the 16-pulse train. -/
def Params.acceptPos (c : Params) : Nat := c.t0 + frameBits * c.clkPeriod

/-- `PR` (R12): the REFRAME position. -/
def Params.reframePos (c : Params) : Nat := c.acceptPos + 1

/-- `WORK` (R12): the ticks of a cycle that carry work. -/
def Params.work (c : Params) : Nat := c.reframePos + 1

/-- R13: the constraints every parameter set must meet; a model must refuse any other set. -/
abbrev Params.Legal (c : Params) : Prop :=
  1 ≤ c.latchWidth ∧ 1 ≤ c.clkLow ∧ c.clkLow < c.clkPeriod ∧ 1 ≤ c.latchClockGap ∧ 1 ≤ c.rereadGap ∧
    c.sampleOffset + c.rereadGap < c.clkPeriod ∧ c.work ≤ c.pollInterval ∧ 1 ≤ c.nPorts

/-- The defaults of R8 to R11. `N_PORTS` and `PORT_BINDING` are OPEN there: one port, bound to lines 0 and 1, is a
DESIGN CHOICE of this model (log entry 4); every other legal set is reached by `construct`. -/
def Params.default : Params where
  latchWidth    := 12
  clkPeriod     := 12
  clkLow        := 6
  latchClockGap := 6
  sampleOffset  := 0
  rereadGap     := 1
  pollInterval  := 5000
  portBinding   := [⟨0, 1⟩]
  stableReset   := 0xFFFF#16

/-- FREE VALUE (log entry 2): the level of `data_in` in tick `n`, where the state's inputs name none. I6 and R170
leave it free: the peer may "drive any level in any tick". It has no body, so no proof can see a value of it. It is the
same constant for every instance (log entry 22). -/
opaque Config.freeData : Nat → Bool

end Sys2Proof
end

