-- ==== Sys2Proof/Syntax.lean ====
section
/-! DEFINITION. The 15 operations (R77), the three formats (R61), the units the micro-operations belong to (R68) and
the words as they stand on the ports. -/

namespace Sys2Proof

/-- The block's complete operation set (R77): one constructor per row of the opcode table. -/
inductive Instr where
  /-- NOP, HCMD `00` (R126). -/
  | nop
  /-- START, HCMD `01` (R112). -/
  | start
  /-- STOP, HCMD `10` (R113). -/
  | stop
  /-- HRSV, the reserved HCMD `11`, stepped as NOP (R127). -/
  | hrsv
  /-- TAKE, the strobe of port `i`'s peripheral (R65, R110). -/
  | take (i : Nat)
  /-- READ_STATE, the consumer samples `state_out` (R66, R125). -/
  | readState
  /-- U_WAIT (R115). -/
  | uWait
  /-- U_TOP (R114). -/
  | uTop
  /-- U_LATCH (R82). -/
  | uLatch
  /-- U_CLK16 (R83). -/
  | uClk16
  /-- U_CLK17 (R84). -/
  | uClk17
  /-- U_SMPA k (R92). -/
  | uSmpa (k : BitIndex)
  /-- U_SMPB k (R93). -/
  | uSmpb (k : BitIndex)
  /-- U_ACCEPT (R99). -/
  | uAccept
  /-- U_REFRAME (R106). -/
  | uReframe
deriving DecidableEq, Repr

/-- The three formats of R61. -/
inductive Format where
  | hcmd
  | port
  | uop
deriving DecidableEq, Repr

/-- The format each operation is encoded in (R61, R77). -/
def Instr.format : Instr → Format
  | .nop => .hcmd
  | .start => .hcmd
  | .stop => .hcmd
  | .hrsv => .hcmd
  | .take _ => .port
  | .readState => .port
  | .uWait => .uop
  | .uTop => .uop
  | .uLatch => .uop
  | .uClk16 => .uop
  | .uClk17 => .uop
  | .uSmpa _ => .uop
  | .uSmpb _ => .uop
  | .uAccept => .uop
  | .uReframe => .uop

/-- The five units of R2, in the order of R68's column "unit". -/
inductive BlockUnit where
  | controller
  | pulseGenerator
  | sampler
  | filter
  | reframer
deriving DecidableEq, Repr

/-- Every unit, for the check of R70. -/
def BlockUnit.all : List BlockUnit := [.controller, .pulseGenerator, .sampler, .filter, .reframer]

/-- R68's column "unit": the unit a micro-operation is issued to; the operations of the ports are issued to none. -/
def Instr.blockUnit : Instr → Option BlockUnit
  | .nop => none
  | .start => none
  | .stop => none
  | .hrsv => none
  | .take _ => none
  | .readState => none
  | .uWait => some .controller
  | .uTop => some .controller
  | .uLatch => some .pulseGenerator
  | .uClk16 => some .pulseGenerator
  | .uClk17 => some .pulseGenerator
  | .uSmpa _ => some .sampler
  | .uSmpb _ => some .sampler
  | .uAccept => some .filter
  | .uReframe => some .reframer

/-- The phases of a tick in which an operation runs (R7, R118). Phase A carries no operation; `read` is READ_STATE,
which R125 places in no phase ("any tick"). -/
inductive Phase where
  | read
  | h
  | c
  | p
  | s
  | f
  | r
  | t
deriving DecidableEq, Repr

/-- The phase each operation runs in (R7; the headers of files 41 to 45). -/
def Instr.phase : Instr → Phase
  | .nop => .h
  | .start => .h
  | .stop => .h
  | .hrsv => .h
  | .take _ => .t
  | .readState => .read
  | .uWait => .c
  | .uTop => .c
  | .uLatch => .p
  | .uClk16 => .p
  | .uClk17 => .p
  | .uSmpa _ => .s
  | .uSmpb _ => .s
  | .uAccept => .f
  | .uReframe => .r

/-- A word as it stands on its port: the decoder tells the format from the port a word arrives on (R61). -/
inductive PortWord where
  /-- The word on the input port `hcmd` (R62). -/
  | hcmd (w : HcmdWord)
  /-- The strobe `take[i]` (R65): the index is the wire's, not a field. -/
  | take (i : Nat) (strobe : BitVec 1)
  /-- The output port `state_out`, driven in every tick; READ_STATE has no word (R66). -/
  | stateOut
  /-- A micro-operation word (R67). -/
  | uop (w : UopWord)
deriving DecidableEq, Repr

/-- The format of the port a word stands on (R61). -/
def PortWord.format : PortWord → Format
  | .hcmd _ => .hcmd
  | .take _ _ => .port
  | .stateOut => .port
  | .uop _ => .uop

end Sys2Proof
end

