-- ==== Sys2Proof/WellFormed.lean ====
section
/-! DEFINITION. Which terms of `Instr` are operations of a block with `nPorts` bound ports. -/

namespace Sys2Proof

/-- R65: the index of a TAKE is the index of a wire, `0 .. N_PORTS-1`. Every other operand is in range by its type:
`k` is a 4-bit number (R67). -/
def Instr.wellFormed (nPorts : Nat) : Instr → Bool
  | .nop => true
  | .start => true
  | .stop => true
  | .hrsv => true
  | .take i => decide (i < nPorts)
  | .readState => true
  | .uWait => true
  | .uTop => true
  | .uLatch => true
  | .uClk16 => true
  | .uClk17 => true
  | .uSmpa _ => true
  | .uSmpb _ => true
  | .uAccept => true
  | .uReframe => true

end Sys2Proof
end

