-- ==== Sys2Proof/Decode.lean ====
section
/-! DEFINITION. The decoders of R63, R65, R66, R68 and R69, total on every word (R76), then the encoder, and the
reading of a bare table word. -/

namespace Sys2Proof

/-- What a word on a port says. -/
inductive Decoded where
  /-- An operation. -/
  | op (i : Instr)
  /-- No operation: a strobe `take[i] = 0` (R65). -/
  | noTake (i : Nat)
  /-- A reserved or illegal UOP word (R69). -/
  | illegalUop (w : UopWord)
  /-- A strobe on a wire the block does not have (R65). -/
  | noSuchPort (i : Nat)
deriving DecidableEq, Repr

/-- R67: the field `op`, `u[7:4]`. -/
def uopField (w : UopWord) : BitVec 4 := w.extractLsb' 4 4

/-- R67: the field `k`, `u[3:0]`. -/
def uopIndex (w : UopWord) : BitIndex := w.extractLsb' 0 4

/-- R63: the four HCMD codes. -/
def decodeHcmd (w : HcmdWord) : Instr :=
  match w.toNat with
  | 0 => .nop
  | 1 => .start
  | 2 => .stop
  | _ => .hrsv

/-- R68 and R69: the nine micro-operations; every other word is illegal. -/
def decodeUop (w : UopWord) : Option Instr :=
  match (uopField w).toNat with
  | 5 => some (.uSmpa (uopIndex w))
  | 6 => some (.uSmpb (uopIndex w))
  | op =>
    if uopIndex w = 0#4 then
      match op with
      | 0 => some .uWait
      | 1 => some .uTop
      | 2 => some .uLatch
      | 3 => some .uClk16
      | 4 => some .uClk17
      | 7 => some .uAccept
      | 8 => some .uReframe
      | _ => none
    else none

/-- The decoder of a block with `nPorts` bound ports: the port selects the format (R61), and every word has an answer
(R76). -/
def decode (nPorts : Nat) : PortWord → Decoded
  | .hcmd w => .op (decodeHcmd w)
  | .take i strobe =>
    if i < nPorts then (if strobe = 1#1 then .op (.take i) else .noTake i) else .noSuchPort i
  | .stateOut => .op .readState
  | .uop w =>
    match decodeUop w with
    | some i => .op i
    | none => .illegalUop w

/-- The word of an operation, from the tables of R63, R65, R66 and R68. -/
def encode : Instr → PortWord
  | .nop => .hcmd 0b00#2
  | .start => .hcmd 0b01#2
  | .stop => .hcmd 0b10#2
  | .hrsv => .hcmd 0b11#2
  | .take i => .take i 1#1
  | .readState => .stateOut
  | .uWait => .uop 0x00#8
  | .uTop => .uop 0x10#8
  | .uLatch => .uop 0x20#8
  | .uClk16 => .uop 0x30#8
  | .uClk17 => .uop 0x40#8
  | .uSmpa k => .uop (0x5#4 ++ k)
  | .uSmpb k => .uop (0x6#4 ++ k)
  | .uAccept => .uop 0x70#8
  | .uReframe => .uop 0x80#8

/-- The port that a bare table word of `nbits` bits stands on. The opcode table gives bits and no port, so a width has
to stand for the port (DESIGN CHOICE, log entry 14): no bits is `state_out`, one bit is port 0's strobe, two bits are
`hcmd`, eight bits are a UOP word; an 8-bit word that R69 makes illegal and that has only `hcmd[1:0]` set is the HCMD
word widened to a byte. Its index `0` is the one port every block has. -/
def tablePort (nbits w : Nat) : Option PortWord :=
  if 2 ^ nbits ≤ w then none
  else
    match nbits with
    | 0 => some .stateOut
    | 1 => some (.take 0 (BitVec.ofNat 1 w))
    | 2 => some (.hcmd (BitVec.ofNat 2 w))
    | 8 =>
      if decodeUop (BitVec.ofNat 8 w) = none ∧ w < 4 then some (.hcmd (BitVec.ofNat 2 w))
      else some (.uop (BitVec.ofNat 8 w))
    | _ => none

/-- The instruction the decoder reads from a bare table word (`tablePort` says on which port). -/
def decodeTableWord (nbits w : Nat) : Option Instr :=
  match tablePort nbits w with
  | none => none
  | some pw =>
    match decode Params.default.nPorts pw with
    | .op i => some i
    | .noTake _ => none
    | .illegalUop _ => none
    | .noSuchPort _ => none

end Sys2Proof
end

