-- ==== Sys2Proof/Machine/State.lean ====
section
/-! DEFINITION. The state of one instance: R20's record, and the model's own fields (the parameters, the pending
inputs, the tick counter, the combinational values of a tick, the outputs). The reasons a step stops. Reset. -/

namespace Sys2Proof.Machine

/-- `life` (R20, R22). Encoding 3 is unreachable (R41), so no constructor has it (log entry 7). -/
inductive Life where
  | idle
  | running
  | stopped
deriving DecidableEq, Repr

/-- `loop` (R20, R23). Encoding 3 is unreachable (R41), so no constructor has it (log entry 7). -/
inductive LoopState where
  | waiting
  | active
  | exited
deriving DecidableEq, Repr

/-- `cg_n` (R20): the pulse count of the clock train, 16 or 17. -/
inductive PulseCount where
  | p16
  | p17
deriving DecidableEq, Repr

/-- One port's mailbox: `slot_valid[i]` and `slot_frame[i]` (R34). -/
structure Slot where
  valid : Bool
  frame : Word17
deriving DecidableEq, Repr

/-- The input ports during one tick (R35), and the words of a unit test bench. -/
structure TickIn where
  /-- The word on `hcmd`. -/
  hcmd  : HcmdWord
  /-- The level of `data_in`, 1 = high; `none` leaves it to the free value (log entry 2). -/
  data  : Option Bool
  /-- `take[i]` at index `i`; a strobe not listed is 0 (R72; log entry 16). -/
  takes : List Bool
  /-- MODEL's own (log entry 9): `none` in the composed block; `some ws` for a tick in which a test bench issues the
  UOP words `ws` in place of the schedule's, as R84, R89 and R162 allow for a unit driven alone. -/
  bench : Option (List UopWord)
deriving DecidableEq, Repr

/-- A tick in which nothing is named: NOP, no take (R72), and the line left to the peer. -/
def TickIn.quiet : TickIn where
  hcmd  := 0b00#2
  data  := none
  takes := []
  bench := none

/-- The output ports (R36) as driven in the last tick, with what each peripheral received in it (R110). -/
structure Out where
  latchOut : Bool
  clockOut : Bool
  stateOut : Word16
  lifeOut  : BitVec 2
  loopOut  : BitVec 2
  txValid  : List Bool
  txData   : List Word17
  /-- MODEL's own (log entry 12): the frame a TAKE of that tick handed to the peripheral of port `i`. -/
  handed   : List (Option Word17)
deriving DecidableEq, Repr

/-- The state of one instance. From `life` to `slots` it is the complete record of R20; the other fields are the
MODEL's own and INVENTORY.md says what each is for. -/
structure State where
  /-- The construction parameters (R43: configuration; no operation writes them; log entry 3). -/
  cfg       : Params
  life      : Life
  loop      : LoopState
  /-- The cycle position, in `0 .. POLL_INTERVAL-1` (R24). -/
  p         : Nat
  lgBusy    : Bool
  /-- Ticks since the latch pulse began (R25). -/
  lgQ       : Nat
  cgBusy    : Bool
  /-- Ticks since the clock train began (R26). -/
  cgQ       : Nat
  cgN       : PulseCount
  /-- The first read of the bit being sampled (R27). -/
  smpA      : Bool
  /-- The InputFrame being captured (R28). -/
  smpFrame  : Word16
  win0      : Word16
  win1      : Word16
  win2      : Word16
  /-- The number of frames in the current window (R30); encoding 3 is unreachable (log entry 7). -/
  voteCtr   : Fin 3
  /-- The StableInputState (R31). -/
  stable    : Word16
  lastEval  : Bool
  lastAgree : Bool
  /-- `slot_valid[i]` and `slot_frame[i]` at index `i` (R34). -/
  slots     : List Slot
  /-- The combinational `start_acc` of R118, 0 at every tick boundary (log entry 11). -/
  startAcc  : Bool
  /-- The combinational `exit` of R118, 0 at every tick boundary (log entry 11). -/
  exitReq   : Bool
  /-- The inputs of the coming ticks, the next tick's first (log entry 1). -/
  inputs    : List TickIn
  /-- The number of ticks since construction (R6): the argument of the free value. -/
  tick      : Nat
  /-- The outputs of the last tick; at reset the levels R151 names (log entry 12). -/
  out       : Out
deriving DecidableEq, Repr

/-- The only fault of the block (R138). -/
inductive Fault where
  /-- Fault code 1, raised by `construct` with `LINES_OK = 0` (R137) and by nothing else. Safe: the hardware has no
  instance either. -/
  | initFailure
deriving DecidableEq, Repr

/-- Why the model gives a step or an operation no meaning. -/
inductive Refusal where
  /-- Raised by the dispatcher for an instruction without a meaning; no arm does. Safe. -/
  | notModelled (mnemonic : String)
  /-- Raised by `construct` and `step` for a parameter set that breaks R13 ("a model must refuse any other set"). Safe. -/
  | illegalParameters
  /-- Raised by `step` for a state with a value R20 and R41 call unreachable ("must refuse it rather than step it"). Safe. -/
  | unreachableState
  /-- Raised by `step` for a UOP word R69 calls reserved or illegal ("a model that meets one must refuse it"). Safe. -/
  | illegalUop (w : UopWord)
  /-- Raised by `step` for a tick given two micro-operations for one unit (R70, R83; I12: refuse). Safe. -/
  | unitConflict
  /-- Raised by TAKE for an index that is no wire of the block (R65). Safe. -/
  | noSuchPort (i : Nat)
deriving DecidableEq, Repr

/-- The state at construction with the parameters `c` (R151), the outputs at the levels R151 names. -/
def State.initial (c : Params) : State where
  cfg       := c
  life      := .idle
  loop      := .waiting
  p         := 0
  lgBusy    := false
  lgQ       := 0
  cgBusy    := false
  cgQ       := 0
  cgN       := .p16
  smpA      := true
  smpFrame  := 0xFFFF#16
  win0      := 0xFFFF#16
  win1      := 0xFFFF#16
  win2      := 0xFFFF#16
  voteCtr   := 0
  stable    := c.stableReset
  lastEval  := false
  lastAgree := false
  slots     := List.replicate c.nPorts ⟨false, 0#17⟩
  startAcc  := false
  exitReq   := false
  inputs    := []
  tick      := 0
  out       :=
    { latchOut := false, clockOut := true, stateOut := c.stableReset, lifeOut := 0#2, loopOut := 0#2,
      txValid := List.replicate c.nPorts false, txData := List.replicate c.nPorts 0#17,
      handed := List.replicate c.nPorts none }

/-- The machine right after reset: an instance constructed with the default parameters and `LINES_OK = 1` (R150). -/
def State.reset : State := State.initial Params.default

end Sys2Proof.Machine
end

