-- ==== Sys2Proof/Machine/Operands.lean ====
section
/-! DEFINITION. Reading the input ports in a tick, the codes the small fields stand for, and the bit fields of frames. -/

namespace Sys2Proof.Machine

/-- The inputs of the current tick: the first pending ones; past the end, a tick with nothing named (R72). -/
def curIn (s : State) : TickIn :=
  match s.inputs with
  | [] => TickIn.quiet
  | i :: _ => i

/-- `in.data` of the inputs `i` in tick `n` (R16, R35): the level they name, else the free value. DESIGN CHOICE (log
entries 2 and 22): one free value for all instances, so where two of them name no level their lines are equal at equal
ticks, which R146 does not say; a claim about two instances must name the levels of both. -/
def dataLevel (i : TickIn) (n : Nat) : Bool :=
  match i.data with
  | some b => b
  | none => Config.freeData n

/-- `ReadLine()` (R16): the level of `data_in` in the current tick, with no synchroniser delay (D20). -/
def readLine (s : State) : Bool := dataLevel (curIn s) s.tick

/-- `in.take[i]` (R35); a strobe the inputs do not list is 0 (R72). -/
def takeStrobe (i : TickIn) (n : Nat) : Bool := i.takes.getD n false

/-- The 2-bit code of `life` (R20). -/
def lifeCode : Life → BitVec 2
  | .idle => 0#2
  | .running => 1#2
  | .stopped => 2#2

/-- The 2-bit code of `loop` (R20). -/
def loopCode : LoopState → BitVec 2
  | .waiting => 0#2
  | .active => 1#2
  | .exited => 2#2

/-- The `life` a 2-bit code stands for; code 3 is refused (R41). -/
def lifeOfCode (w : BitVec 2) : Option Life :=
  match w.toNat with
  | 0 => some .idle
  | 1 => some .running
  | 2 => some .stopped
  | _ => none

/-- The `loop` a 2-bit code stands for; code 3 is refused (R41). -/
def loopOfCode (w : BitVec 2) : Option LoopState :=
  match w.toNat with
  | 0 => some .waiting
  | 1 => some .active
  | 2 => some .exited
  | _ => none

/-- The `vote_ctr` a 2-bit code stands for; code 3 is refused (R41). -/
def voteOfCode (w : BitVec 2) : Option (Fin 3) :=
  match w.toNat with
  | 0 => some 0
  | 1 => some 1
  | 2 => some 2
  | _ => none

/-- The pulse count `cg_n` stands for (R20). -/
def pulseCount : PulseCount → Nat
  | .p16 => 16
  | .p17 => 17

/-- The 1-bit code of `cg_n` (R20). -/
def pulseCode : PulseCount → BitVec 1
  | .p16 => 0#1
  | .p17 => 1#1

/-- `f[k] := b`, the other bits unchanged (R93). -/
def setFrameBit (f : Word16) (k : BitIndex) (b : Bool) : Word16 :=
  (f &&& ~~~(1#16 <<< k.toNat)) ||| ((BitVec.ofBool b).setWidth 16 <<< k.toNat)

/-- R107: `Reframe(S) = (zext_17(S) << 1) & 0x1FFFE`. -/
def reframe (v : Word16) : Word17 := (v.setWidth 17 <<< 1) &&& 0x1FFFE#17

/-- The authoritative bits of a 16-bit state, 0 to 11 (R96): what a consumer may give meaning to. -/
def authoritative (v : Word16) : BitVec 12 := v.extractLsb' 0 authBits

/-- The reserved bits of a 16-bit state, 12 to 15 (R96): kept as read, never masked. -/
def reserved (v : Word16) : BitVec 4 := v.extractLsb' authBits (frameBits - authBits)

/-- `win[c]` (R20). -/
def winAt (s : State) (c : Fin 3) : Word16 :=
  if c = 0 then s.win0 else if c = 1 then s.win1 else s.win2

end Sys2Proof.Machine
end

