-- ==== Sys2Proof/Machine/Flags.lean ====
section
/-! DEFINITION. How each flag of R33 is computed: `lg_busy` and `cg_busy` with their counters (R85, R86),
`last_eval` and `last_agree` (R32, R99). `slot_valid[i]` is written with its slot in Ops.lean. -/

namespace Sys2Proof.Machine

/-- R85: `lg_busy` after the tick, from the phase P values. -/
def latchBusyNext (width : Nat) (busy : Bool) (q : Nat) : Bool := busy && decide (q + 1 ≠ width)

/-- R85: `lg_q` after the tick, from the phase P values. -/
def latchTicksNext (width : Nat) (busy : Bool) (q : Nat) : Nat :=
  if busy = true ∧ q + 1 = width then 0 else if busy = true then q + 1 else 0

/-- R86: `cg_busy` after the tick, from the phase P values; `len` is `cgn * CLK_PERIOD`. -/
def clockBusyNext (len : Nat) (busy : Bool) (q : Nat) : Bool := busy && decide (q + 1 ≠ len)

/-- R86: `cg_q` after the tick, from the phase P values; `len` is `cgn * CLK_PERIOD`. -/
def clockTicksNext (len : Nat) (busy : Bool) (q : Nat) : Nat :=
  if busy = true ∧ q + 1 = len then 0 else if busy = true then q + 1 else 0

/-- R81: `out.clock_out` from the phase P values. -/
def clockLevel (c : Params) (busy : Bool) (q : Nat) : Bool :=
  if busy = true ∧ q % c.clkPeriod < c.clkLow then false else true

/-- R99: the vote of the window's third call, on whole 16-bit values (R101). -/
def framesAgree (s : State) : Bool := decide (s.win0 = s.win1 ∧ s.win1 = s.smpFrame)

/-- R32: `last_eval` after a U_ACCEPT that found `vote_ctr = c`. -/
def evalFlag (c : Fin 3) : Bool := decide (c = 2)

/-- R32: `last_agree` after a U_ACCEPT at `s`. -/
def agreeFlag (s : State) : Bool := decide (s.voteCtr = 2) && framesAgree s

end Sys2Proof.Machine
end

