-- ==== Sys2Proof/Machine/Ops.lean ====
section
/-! DEFINITION. The shared operations: chaining outcomes, the states a step refuses (R41), construction with the
block's only fault (R137), the phases that carry no operation of their own (the outputs, the advance), and the slots.
There is no trap entry and no return to write (R141, R142): `construct` is the only place a fault comes from. -/

namespace Sys2Proof.Machine

/-- Go on with `f` where `o` is a next state; a fault or a refusal stays as it is. -/
def andThen (o : Host.Outcome State Fault Refusal) (f : State → Host.Outcome State Fault Refusal) :
    Host.Outcome State Fault Refusal :=
  match o with
  | .next s => f s
  | .fault r => .fault r
  | .refused r => .refused r

/-- The next state of an outcome, if it has one. -/
def nextState? (o : Host.Outcome State Fault Refusal) : Option State :=
  match o with
  | .next s => some s
  | .fault _ => none
  | .refused _ => none

/-- The refusal of an outcome, if it is one. -/
def refusal? (o : Host.Outcome State Fault Refusal) : Option Refusal :=
  match o with
  | .next _ => none
  | .fault _ => none
  | .refused r => some r

/-- The fault of an outcome, if it is one. -/
def fault? (o : Host.Outcome State Fault Refusal) : Option Fault :=
  match o with
  | .next _ => none
  | .fault r => some r
  | .refused _ => none

/-- R20 and R41: every element in the range R20 gives it, and none of R41's unreachable combinations. R41 writes
`12*cg_n`, the default `CLK_PERIOD` times the count (DEDUCED, log entry 6). The values `life = 3`, `loop = 3` and
`vote_ctr = 3` have no term (log entry 7). -/
abbrev RangesOk (s : State) : Prop :=
  s.p < s.cfg.pollInterval ∧ (s.loop ≠ .active → s.p = 0) ∧
    s.lgQ < s.cfg.latchWidth ∧ (s.lgBusy = false → s.lgQ = 0) ∧
    s.cgQ < pulseCount s.cgN * s.cfg.clkPeriod ∧ (s.cgBusy = false → s.cgQ = 0) ∧
    s.slots.length = s.cfg.nPorts ∧ (∀ x ∈ s.slots, x.frame.getLsbD 0 = false)

/-- R138: the code of a fault. -/
def faultCode : Fault → Nat
  | .initFailure => 1

/-- R137: construction from the parameters and `LINES_OK`. -/
def construct (c : Params) (linesOk : Bool) : Host.Outcome State Fault Refusal :=
  if c.Legal then
    (if linesOk = true then .next (State.initial c) else .fault .initFailure)
  else .refused .illegalParameters

/-- The start of a tick: the combinational values are 0 (R118), and the registered outputs show the start-of-tick
state (R38, R39); `state_out` is driven by READ_STATE (R125) and the lines by phase P. -/
def beginTick (s : State) : State :=
  { s with
    startAcc := false
    exitReq  := false
    out :=
      { s.out with
        lifeOut := lifeCode s.life
        loopOut := loopCode s.loop
        txValid := s.slots.map Slot.valid
        txData  := s.slots.map Slot.frame
        handed  := List.replicate s.slots.length none } }

/-- R125: `out.state_out = s.stable`. -/
def driveState (s : State) : State := { s with out := { s.out with stateOut := s.stable } }

/-- R81: the line levels, from the generator state after this tick's commands. -/
def driveLines (s : State) : State :=
  { s with
    out := { s.out with latchOut := s.lgBusy, clockOut := clockLevel s.cfg s.cgBusy s.cgQ } }

/-- R82: a latch command starts a pulse; a busy generator ignores it. -/
def startLatch (s : State) : State :=
  if s.lgBusy = false then { s with lgBusy := true, lgQ := 0 } else s

/-- R83, R84: a clock command starts a train of `n` pulses; a busy generator ignores it. -/
def startTrain (n : PulseCount) (s : State) : State :=
  if s.cgBusy = false then { s with cgBusy := true, cgQ := 0, cgN := n } else s

/-- R85: the latch generator's advance, in phase A. -/
def advanceLatch (s : State) : State :=
  { s with
    lgBusy := latchBusyNext s.cfg.latchWidth s.lgBusy s.lgQ
    lgQ    := latchTicksNext s.cfg.latchWidth s.lgBusy s.lgQ }

/-- R86: the clock generator's advance, in phase A; `cg_n` is kept. -/
def advanceClock (s : State) : State :=
  { s with
    cgBusy := clockBusyNext (pulseCount s.cgN * s.cfg.clkPeriod) s.cgBusy s.cgQ
    cgQ    := clockTicksNext (pulseCount s.cgN * s.cfg.clkPeriod) s.cgBusy s.cgQ }

/-- R117: the advance of `loop` and `p`, in phase A. -/
def advancePosition (s : State) : State :=
  if s.startAcc = true then { s with loop := .active, p := 0 }
  else if s.loop = .active ∧ s.exitReq = true then { s with loop := .exited, p := 0 }
  else if s.loop = .active then { s with p := (s.p + 1) % s.cfg.pollInterval }
  else { s with p := 0 }

/-- The end of a tick: its inputs are consumed, the tick counter goes on (R6), the combinational values end. -/
def endTick (s : State) : State :=
  { s with startAcc := false, exitReq := false, inputs := s.inputs.tail, tick := s.tick + 1 }

/-- Phase A (R118). -/
def advance (s : State) : State := endTick (advancePosition (advanceClock (advanceLatch s)))

/-- R110: the peripheral of port `i` takes the frame of the slot `x` that is in place `i`; without a valid frame
nothing happens. -/
def takeSlot (i : Nat) (x : Slot) (s : State) : State :=
  if x.valid = true then
    { s with
      slots := s.slots.set i { x with valid := false }
      out   := { s.out with handed := s.out.handed.set i (some x.frame) } }
  else s

/-- R106: every slot takes the frame `o` and becomes valid, superseding any untaken frame (R109). -/
def writeSlots (o : Word17) (s : State) : State := { s with slots := s.slots.map fun _ => ⟨true, o⟩ }

/-- R99: `win[c] <- f`. -/
def setWin (c : Fin 3) (f : Word16) (s : State) : State :=
  if c = 0 then { s with win0 := f } else if c = 1 then { s with win1 := f } else { s with win2 := f }

end Sys2Proof.Machine
end

