-- ==== Sys2Proof/Machine/Controller.lean ====
section
/-! DEFINITION. The Poll Loop Controller (file 45): START, STOP, U_TOP, U_WAIT and the schedule of R116. -/

namespace Sys2Proof.Machine

/-- START (R112), in phase H: accepted only in IDLE; the loop begins in phase A, through `start_acc` (R117). -/
def execStart (s : State) : Host.Outcome State Fault Refusal :=
  .next (if s.life = .idle then { s with life := .running, startAcc := true } else s)

/-- STOP (R113), in phase H: accepted only in RUNNING; the loop exits later, at U_TOP (R114). -/
def execStop (s : State) : Host.Outcome State Fault Refusal :=
  .next (if s.life = .running then { s with life := .stopped } else s)

/-- U_TOP (R114), in phase C: reads `life` as phase H left it; in STOPPED it raises `exit`, which empties the tick's
micro-operations (`liveOps`) and ends the loop in phase A. -/
def execUTop (s : State) : Host.Outcome State Fault Refusal :=
  .next (if s.life = .stopped then { s with exitReq := true } else s)

/-- U_WAIT (R115): no effect. -/
def execUWait (s : State) : Host.Outcome State Fault Refusal := .next s

/-- R116: `{U_SMPA k} if p == A(k)`, `k = 0..15`. -/
def schedSmpa (c : Params) (p : Nat) : List Instr :=
  ((List.range frameBits).filter fun k => decide (p = c.readA k)).map fun k => .uSmpa (BitVec.ofNat 4 k)

/-- R116: `{U_SMPB k} if p == B(k)`, `k = 0..15`. -/
def schedSmpb (c : Params) (p : Nat) : List Instr :=
  ((List.range frameBits).filter fun k => decide (p = c.readB k)).map fun k => .uSmpb (BitVec.ofNat 4 k)

/-- R116: the micro-operations of the position `p` other than U_WAIT. -/
def schedWork (c : Params) (p : Nat) : List Instr :=
  (if p = 0 then [.uTop, .uLatch] else []) ++ (if p = c.t0 then [.uClk16] else []) ++
    schedSmpa c p ++ schedSmpb c p ++
    (if p = c.acceptPos then [.uAccept] else []) ++ (if p = c.reframePos then [.uReframe] else [])

/-- `Sched(p)` (R116): U_WAIT where the position carries no work. -/
def sched (c : Params) (p : Nat) : List Instr :=
  if schedWork c p = [] then [.uWait] else schedWork c p

end Sys2Proof.Machine
end

