-- ==== Sys2Proof/Machine/Filter.lean ====
section
/-! DEFINITION. The Debounce/Voting Filter's operation (file 43), in phase F. -/

namespace Sys2Proof.Machine

/-- R99: `stable` after a U_ACCEPT at `s`: the whole frame where the third call of a window agrees, else as it was. -/
def stableNext (s : State) : Word16 :=
  if s.voteCtr = 2 ∧ framesAgree s = true then s.smpFrame else s.stable

/-- R99: `vote_ctr` after a U_ACCEPT. -/
def voteNext (c : Fin 3) : Fin 3 := if c = 2 then 0 else c + 1

/-- U_ACCEPT (R99): the frame goes to `win[vote_ctr]`; the third call of a window votes. -/
def execUAccept (s : State) : Host.Outcome State Fault Refusal :=
  .next
    { setWin s.voteCtr s.smpFrame s with
      stable    := stableNext s
      voteCtr   := voteNext s.voteCtr
      lastEval  := evalFlag s.voteCtr
      lastAgree := agreeFlag s }

end Sys2Proof.Machine
end

