-- ==== Sys2Proof/Machine/HostPort.lean ====
section
/-! DEFINITION. The host interface's operations (file 46): NOP, the reserved command and READ_STATE. -/

namespace Sys2Proof.Machine

/-- NOP (R126): no effect. -/
def execNop (s : State) : Host.Outcome State Fault Refusal := .next s

/-- The reserved command `11` (R127): "the block treats it exactly as NOP". -/
def execHrsv (s : State) : Host.Outcome State Fault Refusal := .next s

/-- READ_STATE (R125): `out.state_out = s.stable`, and no other effect (R55). -/
def execReadState (s : State) : Host.Outcome State Fault Refusal := .next (driveState s)

end Sys2Proof.Machine
end

