-- ==== Sys2Proof/Machine/Pulse.lean ====
section
/-! DEFINITION. The Pulse Generator's operations (file 41): each is its phase P effect; the levels follow from
`driveLines` and the counters from `advanceLatch` and `advanceClock`. -/

namespace Sys2Proof.Machine

/-- U_LATCH (R82). -/
def execULatch (s : State) : Host.Outcome State Fault Refusal := .next (startLatch s)

/-- U_CLK16 (R83). -/
def execUClk16 (s : State) : Host.Outcome State Fault Refusal := .next (startTrain .p16 s)

/-- U_CLK17 (R84): the 17-pulse variant, which the composed schedule never issues (R89). -/
def execUClk17 (s : State) : Host.Outcome State Fault Refusal := .next (startTrain .p17 s)

end Sys2Proof.Machine
end

