-- ==== Sys2Proof/Machine/Reframer.lean ====
section
/-! DEFINITION. The Pass-Through Re-Framer's operations (file 44): U_REFRAME and TAKE. -/

namespace Sys2Proof.Machine

/-- U_REFRAME (R106): where this cycle's U_ACCEPT closed a window, every slot takes `Reframe(s.stable)`; otherwise no
effect. -/
def execUReframe (s : State) : Host.Outcome State Fault Refusal :=
  .next (if s.lastEval = true then writeSlots (reframe s.stable) s else s)

/-- TAKE (R110) on port `i`. An index that is no wire of the block is refused (R65). -/
def execTake (i : Nat) (s : State) : Host.Outcome State Fault Refusal :=
  match s.slots[i]? with
  | some x => .next (takeSlot i x s)
  | none => .refused (.noSuchPort i)

end Sys2Proof.Machine
end

