-- ==== Sys2Proof/Machine/Sampler.lean ====
section
/-! DEFINITION. The Sampler's operations (file 42), in phase S. -/

namespace Sys2Proof.Machine

/-- U_SMPA k (R92): `smp_a <- ReadLine()`. The index names the bit being sampled; the read itself does not use it. -/
def execUSmpa (_k : BitIndex) (s : State) : Host.Outcome State Fault Refusal :=
  .next { s with smpA := readLine s }

/-- U_SMPB k (R93): `smp_frame[k] <- s.smp_a & ReadLine()`, the other bits unchanged. -/
def execUSmpb (k : BitIndex) (s : State) : Host.Outcome State Fault Refusal :=
  .next { s with smpFrame := setFrameBit s.smpFrame k (s.smpA && readLine s) }

end Sys2Proof.Machine
end

