-- ==== Sys2Proof/Machine/Dispatch.lean ====
section
/-! DEFINITION. The effect of one operation in its own phase of the tick: one arm per row of the opcode table. -/

namespace Sys2Proof.Machine

def exec (i : Instr) (s : State) : Host.Outcome State Fault Refusal :=
  match i with
  | .nop => Sys2Proof.Machine.execNop s
  | .start => Sys2Proof.Machine.execStart s
  | .stop => Sys2Proof.Machine.execStop s
  | .hrsv => Sys2Proof.Machine.execHrsv s
  | .take n => Sys2Proof.Machine.execTake n s
  | .readState => Sys2Proof.Machine.execReadState s
  | .uWait => Sys2Proof.Machine.execUWait s
  | .uTop => Sys2Proof.Machine.execUTop s
  | .uLatch => Sys2Proof.Machine.execULatch s
  | .uClk16 => Sys2Proof.Machine.execUClk16 s
  | .uClk17 => Sys2Proof.Machine.execUClk17 s
  | .uSmpa k => Sys2Proof.Machine.execUSmpa k s
  | .uSmpb k => Sys2Proof.Machine.execUSmpb k s
  | .uAccept => Sys2Proof.Machine.execUAccept s
  | .uReframe => Sys2Proof.Machine.execUReframe s

end Sys2Proof.Machine
end

