-- ==== Sys2Proof/Machine/Tick.lean ====
section
/-! DEFINITION. One tick of the block (R118): the words on the ports are fetched, decoded, and their operations run
phase by phase. -/

namespace Sys2Proof.Machine

/-- The UOP words of this tick: a test bench's where the inputs carry them (log entry 9), else the schedule's while
the loop is active (R118, phase C). -/
def uopWords (s : State) : List PortWord :=
  match (curIn s).bench with
  | some ws => ws.map PortWord.uop
  | none => if s.loop = .active then (sched s.cfg s.p).map encode else []

/-- The strobes of this tick, one for each wire `0 .. N_PORTS-1` (R65). -/
def takeWords (s : State) : List PortWord :=
  (List.range s.cfg.nPorts).map fun n => .take n (BitVec.ofBool (takeStrobe (curIn s) n))

/-- Every word that stands on a port in this tick: one HCMD word (R64), `state_out` (R66), the strobes and the UOP
words. -/
def fetchWords (s : State) : List PortWord :=
  .hcmd (curIn s).hcmd :: .stateOut :: (takeWords s ++ uopWords s)

/-- Decode the words of a tick in turn; the first that is no word of this block is the reason to refuse. -/
def decodeWords (nPorts : Nat) : List PortWord → Except Refusal (List Instr)
  | [] => .ok []
  | w :: ws =>
    match decode nPorts w with
    | .op i =>
      match decodeWords nPorts ws with
      | .ok is => .ok (i :: is)
      | .error r => .error r
    | .noTake _ => decodeWords nPorts ws
    | .illegalUop u => .error (.illegalUop u)
    | .noSuchPort n => .error (.noSuchPort n)

/-- R70, I12: does the tick hold two micro-operations for one unit? -/
def unitClash (ops : List Instr) : Bool :=
  BlockUnit.all.any fun u => decide (1 < (ops.filter fun i => decide (i.blockUnit = some u)).length)

/-- The operations of the phase `ph`. -/
def phaseOps (ph : Phase) (ops : List Instr) : List Instr := ops.filter fun i => decide (i.phase = ph)

/-- R114: after `exit` the tick's micro-operations are the empty set; the ports' operations stay. -/
def liveOps (exit : Bool) (ops : List Instr) : List Instr :=
  if exit = true then ops.filter fun i => decide (i.format ≠ .uop) else ops

/-- Run operations in turn, up to the first that does not answer a next state. -/
def runOps : List Instr → State → Host.Outcome State Fault Refusal
  | [], s => .next s
  | i :: is, s => andThen (exec i s) (runOps is)

/-- The phases of R118 over the operations of one tick. Phases T, R, F and S run in an order in which every reader
comes before the phase that writes what it reads, so each reads the start-of-tick state, as R7 and R118 ask
(DEDUCED, log entry 10). -/
def runTick (ops : List Instr) (s : State) : Host.Outcome State Fault Refusal :=
  andThen (runOps (phaseOps .read ops) (beginTick s)) fun s1 =>
  andThen (runOps (phaseOps .h ops) s1) fun s2 =>
  andThen (runOps (phaseOps .c ops) s2) fun s3 =>
  andThen (runOps (phaseOps .p (liveOps s3.exitReq ops)) s3) fun s4 =>
  andThen (runOps (phaseOps .t (liveOps s3.exitReq ops)) (driveLines s4)) fun s5 =>
  andThen (runOps (phaseOps .r (liveOps s3.exitReq ops)) s5) fun s6 =>
  andThen (runOps (phaseOps .f (liveOps s3.exitReq ops)) s6) fun s7 =>
  andThen (runOps (phaseOps .s (liveOps s3.exitReq ops)) s7) fun s8 =>
  .next (advance s8)

/-- One tick from a legal state: fetch, decode, refuse an illegal set, run. -/
def tickOnce (s : State) : Host.Outcome State Fault Refusal :=
  match decodeWords s.cfg.nPorts (fetchWords s) with
  | .error r => .refused r
  | .ok ops => if unitClash ops = true then .refused .unitConflict else runTick ops s

/-- The tick, or the refusal of a parameter set (R13) or a state (R41) that no instance has. -/
def checkedTick (s : State) : Host.Outcome State Fault Refusal :=
  if ¬ s.cfg.Legal then .refused .illegalParameters
  else if ¬ RangesOk s then .refused .unreachableState
  else tickOnce s

/-- A quiet tick that carries one word on its port: an HCMD word or a strobe as an input, a UOP word from a test
bench; `state_out` needs nothing. -/
def tickWith : PortWord → TickIn
  | .hcmd w => { TickIn.quiet with hcmd := w }
  | .take n strobe => { TickIn.quiet with takes := List.replicate n false ++ [decide (strobe = 1#1)] }
  | .stateOut => TickIn.quiet
  | .uop w => { TickIn.quiet with bench := some [w] }

/-- `s` with the word `pw` in a tick of its own before the pending inputs. -/
def placeWord (pw : PortWord) (s : State) : State := { s with inputs := tickWith pw :: s.inputs }

end Sys2Proof.Machine
end

