-- ==== Sys2Proof/Machine/Step.lean ====
section
/-! DEFINITION. The step of the machine, one tick of 1 µs (R6, R118), and the placing of one instruction before it. -/

namespace Sys2Proof.Machine

/-- `Step` of R118, with the inputs of the tick taken from the state. -/
def step (s : State) : Host.Outcome State Fault Refusal := checkedTick s

/-- `s` with one table word placed so that the next step runs it (log entries 14 and 15). -/
def State.withFetchWord (s : State) (nbits w : Nat) : State :=
  match tablePort nbits w with
  | some pw => placeWord pw s
  | none => s

end Sys2Proof.Machine
end

