-- ==== Sys2Proof/Machine/Script.lean ====
section
/-! DEFINITION. The assembler notation of R72 to R74 as data: a host script and a peer stimulus become the inputs of
the coming ticks, the listing of a position, and the pseudo-operations with their expansions. -/

namespace Sys2Proof.Machine

/-- The mnemonics of a host script line (R72); `reserved` is the HCMD word `11`, which R72 gives no name. -/
inductive ScriptCmd where
  | nop
  | start
  | stop
  | reserved
  | take (i : Nat)
  | read
deriving DecidableEq, Repr

/-- A host script line `@t mnemonic` (R72). -/
structure HostLine where
  time : Nat
  cmd  : ScriptCmd
deriving DecidableEq, Repr

/-- A peer stimulus line (R72). -/
inductive PeerLine where
  /-- `@t..u data v`: the level in every tick from `t` to `u` inclusive. -/
  | hold (t u : Nat) (v : Bool)
  /-- `@cycle c bit k = v`: the level in the two ticks of U_SMPA k and U_SMPB k of cycle `c`. -/
  | bit (c k : Nat) (v : Bool)
deriving DecidableEq, Repr

/-- A program (R72; file 95, section 3): a host script and a peer stimulus. -/
structure Script where
  host : List HostLine
  peer : List PeerLine
deriving DecidableEq, Repr

/-- The HCMD word of a script mnemonic (R63); the PORT mnemonics send none. -/
def scriptHcmdOf : ScriptCmd → Option HcmdWord
  | .nop => some 0b00#2
  | .start => some 0b01#2
  | .stop => some 0b10#2
  | .reserved => some 0b11#2
  | .take _ => none
  | .read => none

/-- The HCMD word of tick `t`: the first line that names one, else NOP (R72). -/
def scriptHcmd (sc : Script) (t : Nat) : HcmdWord :=
  ((sc.host.filter fun l => decide (l.time = t)).findSome? fun l => scriptHcmdOf l.cmd).getD 0b00#2

/-- The tick of the first START line: `t0` of R122, from which a stimulus counts its cycles. -/
def scriptStart (sc : Script) : Option Nat :=
  (sc.host.find? fun l => decide (l.cmd = .start)).map HostLine.time

/-- The level a stimulus line names for tick `t`, where START is in tick `t0` (R72, R122). -/
def peerLevel (c : Params) (t0 : Option Nat) (t : Nat) : PeerLine → Option Bool
  | .hold a b v => if a ≤ t ∧ t ≤ b then some v else none
  | .bit n k v =>
    match t0 with
    | none => none
    | some z =>
      if t = z + 1 + n * c.pollInterval + c.readA k ∨ t = z + 1 + n * c.pollInterval + c.readB k then some v
      else none

/-- The inputs of tick `t`: the first stimulus line that names a level gives it (log entry 19). -/
def scriptIn (c : Params) (sc : Script) (t : Nat) : TickIn where
  hcmd  := scriptHcmd sc t
  data  := sc.peer.findSome? (peerLevel c (scriptStart sc) t)
  takes := (List.range c.nPorts).map fun i =>
    sc.host.any fun l => decide (l.time = t) && decide (l.cmd = .take i)
  bench := none

/-- An instance given the first `n` ticks of a script (log entry 15). -/
def loadScript (sc : Script) (n : Nat) (s : State) : State :=
  { s with inputs := (List.range n).map (scriptIn s.cfg sc) }

/-- `run n` (R74): NOP for `n * POLL_INTERVAL` ticks. -/
def runCycles (c : Params) (n : Nat) : List TickIn := List.replicate (n * c.pollInterval) TickIn.quiet

/-- The mnemonic of an operation (R63, R68, R72, R73), with a decimal operand where it has one. -/
def mnemonicText : Instr → String
  | .nop => "nop"
  | .start => "start"
  | .stop => "stop"
  | .hrsv => "reserved"
  | .take i => "take " ++ toString i
  | .readState => "read"
  | .uWait => "wait"
  | .uTop => "top"
  | .uLatch => "latch"
  | .uClk16 => "clk16"
  | .uClk17 => "clk17"
  | .uSmpa k => "smpa " ++ toString k.toNat
  | .uSmpb k => "smpb " ++ toString k.toNat
  | .uAccept => "accept"
  | .uReframe => "reframe"

/-- A line of a micro-operation listing, `p: mnemonic[, mnemonic]` (R73). -/
def listingLine (c : Params) (p : Nat) : String :=
  toString p ++ ": " ++ String.intercalate ", " ((sched c p).map mnemonicText)

/-- The pseudo-operations of R74. -/
inductive PseudoOp where
  | emitLatch
  | emitClock16
  | emitClock17
  | sampleFrame
  | cycle
  | getInputState
deriving DecidableEq, Repr

/-- The expansion of a pseudo-operation (R74): each operation with its cycle position, where it has one. -/
def expand (c : Params) : PseudoOp → List (Option Nat × Instr)
  | .emitLatch => [(some 0, .uLatch)]
  | .emitClock16 => [(some c.t0, .uClk16)]
  | .emitClock17 => [(none, .uClk17)]
  | .sampleFrame =>
    (List.range frameBits).flatMap fun k =>
      [(some (c.readA k), .uSmpa (BitVec.ofNat 4 k)), (some (c.readB k), .uSmpb (BitVec.ofNat 4 k))]
  | .cycle => (List.range c.pollInterval).flatMap fun p => (sched c p).map fun i => (some p, i)
  | .getInputState => [(none, .readState)]

end Sys2Proof.Machine
end

