-- ==== Sys2Proof/Safety.lean ====
section
/-! DEFINITION. What counts as a good state and a safe run: the composed block, its invariant (R42 with the waveform
positions behind it), and the duties of the agents around it (R156, R170). -/

namespace Sys2Proof.Machine

/-- The composed block: no pending tick carries a test bench's words, so the schedule alone issues micro-operations
(R67, R116). -/
abbrev Composed (s : State) : Prop := ∀ i ∈ s.inputs, i.bench = none

/-- A state the composed block can be in. The clauses `waiting` to `quiet` and `sameFrames` are R42; `ranges` is R41
and R42's `slot_frame[i][0] = 0`; the rest say where in the cycle each generator is busy (R87), that the count stays
16 (R89), and that the combinational values rest at 0. -/
structure BlockInv (s : State) : Prop where
  legal      : s.cfg.Legal
  ranges     : RangesOk s
  composed   : Composed s
  waiting    : s.loop = .waiting → s.life = .idle
  active     : s.loop = .active → s.life ≠ .idle
  exited     : s.loop = .exited → s.life = .stopped
  quiet      : s.loop ≠ .active → s.lgBusy = false ∧ s.cgBusy = false
  latchPos   : s.loop = .active → (s.lgBusy = true ↔ 0 < s.p ∧ s.p < s.cfg.latchWidth)
  latchTicks : s.lgBusy = true → s.lgQ = s.p
  clockPos   : s.loop = .active → (s.cgBusy = true ↔ s.cfg.t0 < s.p ∧ s.p < s.cfg.acceptPos)
  clockTicks : s.cgBusy = true → s.cgQ + s.cfg.t0 = s.p
  count16    : s.cgN = .p16
  sameFrames : ∀ a ∈ s.slots, ∀ b ∈ s.slots, a.frame = b.frame
  combClear  : s.startAcc = false ∧ s.exitReq = false

/-- A tick is safe where the step answers a next state. -/
def SafeTick (s : State) : Prop := ∃ t, step s = .next t

/-- A run of `n` ticks is safe where it reaches a state. -/
def SafeRun (n : Nat) (s : State) : Prop := ∃ t, Sys2Proof.core.run n s = .next t

/-- The inputs of the tick `j` ticks after the current one. -/
def inputAt (s : State) (j : Nat) : TickIn := s.inputs.getD j TickIn.quiet

/-- The level of `data_in` in the tick `j` ticks after the current one. -/
def dataAt (s : State) (j : Nat) : Bool := dataLevel (inputAt s j) (s.tick + j)

/-- The peer's data contract for the cycle whose top is the current tick (R156): bit `k` of `f` stands on the line at
both reads of bit `k`. -/
def PeerHolds (s : State) (f : Word16) : Prop :=
  ∀ k < frameBits, dataAt s (s.cfg.readA k) = f.getLsbD k ∧ dataAt s (s.cfg.readB k) = f.getLsbD k

/-- The lifecycle host's duties in one tick (R170): START only in IDLE, STOP only in RUNNING, never HCMD `11`. -/
def HostObeys (s : State) : Prop :=
  decodeHcmd (curIn s).hcmd = .nop ∨ (decodeHcmd (curIn s).hcmd = .start ∧ s.life = .idle) ∨
    (decodeHcmd (curIn s).hcmd = .stop ∧ s.life = .running)

/-- The peripheral of port `i` takes within `n` ticks (R161, R170), where it needs every frame. -/
def TakesWithin (s : State) (i n : Nat) : Prop := ∃ j < n, takeStrobe (inputAt s j) i = true

end Sys2Proof.Machine
end

