-- ==== Sys2Proof/Certificates/Slice0/Obligations.lean ====
section
/-! DEFINITION. The statements for the provers, from the numbered rules of spec/. The definitions under
`Sys2Proof.Spec` transcribe the spec's tables and R118's pseudocode for the statements to compare the model with. -/

namespace Sys2Proof.Spec

open Sys2Proof.Machine

/-- R119, first table: `life` after a tick whose command is `w`. -/
def lifeTable (l : Life) (w : HcmdWord) : Life :=
  match l, w.toNat with
  | .idle, 1 => .running
  | .running, 2 => .stopped
  | l, _ => l

/-- START is accepted in this tick (R112). -/
abbrev startAccepted (s : State) : Prop := (curIn s).hcmd = 0b01#2 ∧ s.life = .idle

/-- The loop exits in this tick (R114, R119): a cycle top, with `life = STOPPED` after phase H. -/
abbrev exitsNow (s : State) : Prop :=
  s.loop = .active ∧ s.p = 0 ∧ lifeTable s.life (curIn s).hcmd = .stopped

/-- The clock line in this tick, by the cycle position (R87): low in the low part of each of the 16 pulses. -/
abbrev clockLowNow (s : State) : Prop :=
  s.loop = .active ∧ s.cfg.t0 ≤ s.p ∧ s.p < s.cfg.acceptPos ∧ (s.p - s.cfg.t0) % s.cfg.clkPeriod < s.cfg.clkLow

/-- The micro-operations of a tick as a set given in a list: the schedule's in the composed block (R118, phase C); in
a tick of a unit test bench, those its words decode to, no two for one unit. -/
def TickUops (s : State) (us : List Instr) : Prop :=
  ((curIn s).bench = none ∧ us = if s.loop = .active then sched s.cfg s.p else []) ∨
    ∃ ws, (curIn s).bench = some ws ∧ ws.map decodeUop = us.map some ∧ unitClash us = false

/-- The bit index of a U_SMPB. -/
def smpbIndex : Instr → Option BitIndex
  | .uSmpb k => some k
  | _ => none

/-- Is it a U_SMPA? -/
def isSmpa : Instr → Bool
  | .uSmpa _ => true
  | _ => false

/-- `Step` of R118, transcribed: every right-hand side reads the start-of-tick state `s`, but where R118 says
otherwise; `us0` is the set the schedule gives the tick. -/
def tick118 (us0 : List Instr) (s : State) : State :=
  -- phase H
  let startAcc := decide (startAccepted s)
  let life := lifeTable s.life (curIn s).hcmd
  -- phase C
  let exit := decide (.uTop ∈ us0 ∧ life = .stopped)
  let us := if exit = true then [] else us0
  -- phase P
  let lgb := s.lgBusy || decide (.uLatch ∈ us)
  let lgq := if .uLatch ∈ us ∧ s.lgBusy = false then 0 else s.lgQ
  let cgb := s.cgBusy || decide (.uClk16 ∈ us ∨ .uClk17 ∈ us)
  let cgq := if (.uClk16 ∈ us ∨ .uClk17 ∈ us) ∧ s.cgBusy = false then 0 else s.cgQ
  let cgn :=
    if s.cgBusy = false then (if .uClk16 ∈ us then .p16 else if .uClk17 ∈ us then .p17 else s.cgN) else s.cgN
  -- phase F
  let accept := decide (.uAccept ∈ us)
  let agree := decide (s.win0 = s.win1 ∧ s.win1 = s.smpFrame)
  -- phases R and T
  let write := decide (.uReframe ∈ us) && s.lastEval
  { cfg := s.cfg
    life := life
    loop :=
      if startAcc = true then .active else if s.loop = .active ∧ exit = true then .exited else s.loop
    p :=
      if startAcc = true then 0
      else if s.loop = .active ∧ exit = true then 0
      else if s.loop = .active then (s.p + 1) % s.cfg.pollInterval
      else 0
    lgBusy := lgb && decide (lgq + 1 ≠ s.cfg.latchWidth)
    lgQ := if lgb = true ∧ lgq + 1 ≠ s.cfg.latchWidth then lgq + 1 else 0
    cgBusy := cgb && decide (cgq + 1 ≠ pulseCount cgn * s.cfg.clkPeriod)
    cgQ := if cgb = true ∧ cgq + 1 ≠ pulseCount cgn * s.cfg.clkPeriod then cgq + 1 else 0
    cgN := cgn
    smpA := if us.any isSmpa = true then readLine s else s.smpA
    smpFrame :=
      match us.findSome? smpbIndex with
      | some k => setFrameBit s.smpFrame k (s.smpA && readLine s)
      | none => s.smpFrame
    win0 := if accept = true ∧ s.voteCtr = 0 then s.smpFrame else s.win0
    win1 := if accept = true ∧ s.voteCtr = 1 then s.smpFrame else s.win1
    win2 := if accept = true ∧ s.voteCtr = 2 then s.smpFrame else s.win2
    voteCtr := if accept = true then (if s.voteCtr = 2 then 0 else s.voteCtr + 1) else s.voteCtr
    stable := if accept = true ∧ s.voteCtr = 2 ∧ agree = true then s.smpFrame else s.stable
    lastEval := if accept = true then decide (s.voteCtr = 2) else s.lastEval
    lastAgree := if accept = true then decide (s.voteCtr = 2) && agree else s.lastAgree
    slots :=
      s.slots.mapIdx fun n x =>
        if write = true then ⟨true, reframe s.stable⟩
        else ⟨if takeStrobe (curIn s) n = true ∧ x.valid = true then false else x.valid, x.frame⟩
    startAcc := false
    exitReq := false
    inputs := s.inputs.tail
    tick := s.tick + 1
    out :=
      { latchOut := lgb
        clockOut := if cgb = true ∧ cgq % s.cfg.clkPeriod < s.cfg.clkLow then false else true
        stateOut := s.stable
        lifeOut := lifeCode s.life
        loopOut := loopCode s.loop
        txValid := s.slots.map Slot.valid
        txData := s.slots.map Slot.frame
        handed :=
          s.slots.mapIdx fun n x =>
            if takeStrobe (curIn s) n = true ∧ x.valid = true then some x.frame else none } }

/-- The inputs of this tick with the command `w` in place of theirs. -/
def withHcmd (w : HcmdWord) (s : State) : State :=
  { s with inputs := { curIn s with hcmd := w } :: s.inputs.tail }

/-- The inputs of this tick with the level `b` on `data_in`. -/
def withData (b : Bool) (s : State) : State :=
  { s with inputs := { curIn s with data := some b } :: s.inputs.tail }

/-- The start of a tick and its registered outputs: what the step does before a single operation. -/
def openTick (s : State) : State := driveState (beginTick s)

/-- The lines and phase A: what the step does after a single operation. -/
def closeTick (s : State) : State := advance (driveLines s)

/-- `s` with other reset contents of the sampler and the window (R44, R152). -/
def withSampler (a : Bool) (f w0 w1 w2 : Word16) (s : State) : State :=
  { s with smpA := a, smpFrame := f, win0 := w0, win1 := w1, win2 := w2 }

/-- Two lists of inputs that differ in the host's commands alone. -/
def SameButHcmd (i j : List TickIn) : Prop :=
  i.map (fun x => { x with hcmd := 0b00#2 }) = j.map fun x => { x with hcmd := 0b00#2 }

/-- Two states that differ in the sampler and the window alone, and there only in what the block overwrites before it
reads it (R44): `smp_a` outside a bit's two reads, the bits of `smp_frame` not yet written in this cycle, the places of
the window not yet written in this window. -/
structure SamplerAlike (a b : State) : Prop where
  rest  : b = withSampler b.smpA b.smpFrame b.win0 b.win1 b.win2 a
  reads : a.loop = .active → ∀ k < 16, a.cfg.readA k < a.p → a.p ≤ a.cfg.readB k → a.smpA = b.smpA
  bits  : a.loop = .active → ∀ k < 16, a.cfg.readB k < a.p → a.smpFrame.getLsbD k = b.smpFrame.getLsbD k
  first : a.voteCtr ≠ 0 → a.win0 = b.win0
  second : a.voteCtr = 2 → a.win1 = b.win1

/-- Cold start as an invariant of one state (R168). `progress` says that a cycle of an active loop has the number `w`,
that `w` whole cycles and the START tick lie behind it, and that `vote_ctr` counts its U_ACCEPTs; `kept` and `empty`
say what holds up to the third U_ACCEPT and its U_REFRAME. -/
structure ColdStartInv (s : State) : Prop where
  waiting  : s.loop = .waiting → s.voteCtr = 0
  progress : s.loop = .active → ∃ w, w * s.cfg.pollInterval + s.p + 1 ≤ s.tick ∧
    s.voteCtr.val = (if s.p ≤ s.cfg.acceptPos then w else w + 1) % 3
  kept     : s.tick ≤ 1 + 2 * s.cfg.pollInterval + s.cfg.acceptPos →
    s.stable = s.cfg.stableReset ∧ s.lastEval = false
  empty    : s.tick ≤ 1 + 2 * s.cfg.pollInterval + s.cfg.reframePos → ∀ x ∈ s.slots, x = ⟨false, 0x00000#17⟩

end Sys2Proof.Spec

open Sys2Proof Sys2Proof.Machine Sys2Proof.Spec

/-! ### Construction, reset, faults -/

/-- R137, R138: construction refuses an illegal parameter set, fails with code 1 (and no other code exists) where the
lines are not configured, and otherwise yields the reset state. -/
def Obligations.ConstructionOutcome : Prop :=
  (∀ c ok, ¬ c.Legal → construct c ok = .refused .illegalParameters) ∧
  (∀ c, c.Legal → construct c false = .fault .initFailure) ∧
  (∀ c, c.Legal → construct c true = .next (State.initial c)) ∧
  (∀ f, faultCode f = 1 ∧ f = .initFailure)

/-- R151: the reset state, element by element, and the outputs at reset, for every legal parameter set. -/
def Obligations.ResetStateOfEveryInstance : Prop :=
  ∀ c s, construct c true = .next s →
    s.cfg = c ∧ s.life = .idle ∧ s.loop = .waiting ∧ s.p = 0 ∧ s.lgBusy = false ∧ s.lgQ = 0 ∧
    s.cgBusy = false ∧ s.cgQ = 0 ∧ pulseCount s.cgN = 16 ∧ s.smpA = true ∧ s.smpFrame = 0xFFFF#16 ∧
    s.win0 = 0xFFFF#16 ∧ s.win1 = 0xFFFF#16 ∧ s.win2 = 0xFFFF#16 ∧ s.voteCtr = 0 ∧ s.stable = c.stableReset ∧
    Params.default.stableReset = 0xFFFF#16 ∧ s.lastEval = false ∧ s.lastAgree = false ∧
    s.slots.length = c.nPorts ∧ (∀ x ∈ s.slots, x.valid = false ∧ x.frame = 0x00000#17) ∧
    s.out.latchOut = false ∧ s.out.clockOut = true ∧ s.out.stateOut = c.stableReset ∧
    s.out.lifeOut = lifeCode .idle ∧ s.out.loopOut = loopCode .waiting ∧
    s.out.txValid.length = c.nPorts ∧ (∀ v ∈ s.out.txValid, v = false)

/-- R133: no operation faults and every one is defined for every state and input. No step of any state faults, no
operation of `exec` faults, every operation of the block's ports completes in every state, and so does a tick of the
composed block from every state in range, whatever its inputs. -/
def Obligations.EveryComposedTickCompletes : Prop :=
  (∀ s f, step s ≠ .fault f) ∧
  (∀ i s f, exec i s ≠ .fault f) ∧
  (∀ i s, i.wellFormed s.slots.length = true → ∃ t, exec i s = .next t) ∧
  (∀ s, s.cfg.Legal → RangesOk s → (curIn s).bench = none → ∃ t, step s = .next t)

/-- R41: a state with one of the unreachable values is refused, and no code 3 stands for a `life`, a `loop` or a
`vote_ctr`. `12*cg_n` is `CLK_PERIOD*cg_n` (log entry 6). -/
def Obligations.UnreachableStatesAreRefused : Prop :=
  (∀ s, s.cfg.Legal →
    ((s.lgBusy = false ∧ s.lgQ ≠ 0) ∨ (s.cgBusy = false ∧ s.cgQ ≠ 0) ∨
      (s.cgBusy = true ∧ s.cfg.clkPeriod * pulseCount s.cgN ≤ s.cgQ) ∨ (s.p ≠ 0 ∧ s.loop ≠ .active)) →
    step s = .refused .unreachableState) ∧
  lifeOfCode 3#2 = none ∧ loopOfCode 3#2 = none ∧ voteOfCode 3#2 = none ∧
  (∀ l, lifeCode l ≠ 3#2 ∧ lifeOfCode (lifeCode l) = some l) ∧
  (∀ l, loopCode l ≠ 3#2 ∧ loopOfCode (loopCode l) = some l)

/-- R13: a parameter set that breaks one of the constraints is refused, at construction and, for a state of the model
that carries such a set (log entry 3), by the step; the defaults are legal. -/
def Obligations.IllegalParametersAreRefused : Prop :=
  (∀ c : Params,
    c.latchWidth = 0 ∨ c.clkLow = 0 ∨ c.clkPeriod ≤ c.clkLow ∨ c.latchClockGap = 0 ∨ c.rereadGap = 0 ∨
      c.clkPeriod ≤ c.sampleOffset + c.rereadGap ∨
      c.pollInterval < c.latchWidth + c.latchClockGap + 16 * c.clkPeriod + 2 ∨ c.portBinding = [] →
    (∀ ok, construct c ok = .refused .illegalParameters) ∧ ∀ s, s.cfg = c → step s = .refused .illegalParameters) ∧
  construct Params.default true = .next State.reset

/-! ### Encodings -/

/-- Words written out from R63, R65, R66 and R68 decode to the operations they stand for (file 95, V7 to V12). -/
def Obligations.SpecWordsDecode : Prop :=
  decode 1 (.hcmd 0b00#2) = .op .nop ∧ decode 1 (.hcmd 0b01#2) = .op .start ∧
  decode 1 (.hcmd 0b10#2) = .op .stop ∧ decode 1 (.hcmd 0b11#2) = .op .hrsv ∧
  decode 1 (.take 0 1#1) = .op (.take 0) ∧ decode 1 .stateOut = .op .readState ∧
  decode 1 (.uop 0b00000000#8) = .op .uWait ∧ decode 1 (.uop 0b00010000#8) = .op .uTop ∧
  decode 1 (.uop 0b00100000#8) = .op .uLatch ∧ decode 1 (.uop 0b00110000#8) = .op .uClk16 ∧
  decode 1 (.uop 0b01000000#8) = .op .uClk17 ∧ decode 1 (.uop 0b01011010#8) = .op (.uSmpa 10) ∧
  decode 1 (.uop 0b01100011#8) = .op (.uSmpb 3) ∧ decode 1 (.uop 0b01110000#8) = .op .uAccept ∧
  decode 1 (.uop 0b10000000#8) = .op .uReframe ∧ decode 1 (.uop 0x2F#8) = .illegalUop 0x2F#8 ∧
  decode 1 (.uop 0x90#8) = .illegalUop 0x90#8

/-- Decode and encode agree, both ways: a well-formed operation is what its word decodes to, and a word that decodes
to an operation is that operation's word, so no bit of an encoding is dropped and no two words share one. -/
def Obligations.DecodeAndEncodeAgree : Prop :=
  (∀ n i, i.wellFormed n = true → decode n (encode i) = .op i) ∧
  (∀ n w i, decode n w = .op i → i.wellFormed n = true ∧ encode i = w)

/-- The reserved and illegal UOP words are exactly those R69 names, the schedule never produces one, and a tick that
meets one is refused. The third clause rests on the model's own choices: a tick can meet such a word only from a unit
test bench (log entry 9, DESIGN CHOICE), and it is refused for the word also where its words clash (log entry 24,
DEDUCED). -/
def Obligations.IllegalUopWordsAreRefused : Prop :=
  (∀ n (w : UopWord), decode n (.uop w) = .illegalUop w ↔
    9 ≤ (uopField w).toNat ∨ ((uopField w).toNat ∈ [0, 1, 2, 3, 4, 7, 8] ∧ uopIndex w ≠ 0#4)) ∧
  (∀ c p, ∀ i ∈ sched c p, ∃ w, encode i = .uop w ∧ decodeUop w = some i) ∧
  (∀ s ws, s.cfg.Legal → RangesOk s → (curIn s).bench = some ws → (∃ w ∈ ws, decodeUop w = none) →
    ∃ w ∈ ws, decodeUop w = none ∧ step s = .refused (.illegalUop w))

/-- R83 and I12: a tick given two micro-operations for one unit, U_CLK16 and U_CLK17 among them, is refused. -/
def Obligations.TwoUopsForOneUnitAreRefused : Prop :=
  ∀ s ws us i j, s.cfg.Legal → RangesOk s → (curIn s).bench = some ws → ws.map decodeUop = us.map some →
    List.Sublist [i, j] us → i.blockUnit = j.blockUnit → step s = .refused .unitConflict

/-! ### The step runs what it decodes -/

/-- A step runs the decoded operations: from a state in range, the operations the tick's words decode to run through
the phases, and nothing else does. -/
def Obligations.StepRunsTheDecodedWords : Prop :=
  ∀ s ops, s.cfg.Legal → RangesOk s → decodeWords s.cfg.nPorts (fetchWords s) = .ok ops →
    unitClash ops = false → step s = runTick ops s

/-- The step after `withFetchWord` is `exec` of the instruction its word decodes to, between the start of the tick and
the advance of R118; for a word of a port, in a state whose schedule issues nothing. -/
def Obligations.StepRunsThePlacedWord : Prop :=
  ∀ s nbits w i, decodeTableWord nbits w = some i → s.cfg.Legal → RangesOk s →
    (i.format = .uop ∨ s.loop ≠ .active) →
    step (s.withFetchWord nbits w) =
      andThen (exec i (openTick (s.withFetchWord nbits w))) fun t => .next (closeTick t)

/-- R118: the step of the composed block is the spec's `Step`, every element of the state and every output. The fields
`inputs`, `tick` and `out.handed` are the model's own (log entries 1 and 12). -/
def Obligations.StepIsTheTickOfTheSpec : Prop :=
  ∀ s, s.cfg.Legal → RangesOk s → (curIn s).bench = none →
    step s = .next (tick118 (if s.loop = .active then sched s.cfg s.p else []) s)

/-- A tick of a unit test bench (R84, R89, R162; the model's own input form, log entry 9) is the spec's `Step` over the
micro-operations the bench's words decode to. -/
def Obligations.BenchTickIsTheTickOfTheSpec : Prop :=
  ∀ s ws us, s.cfg.Legal → RangesOk s → (curIn s).bench = some ws → ws.map decodeUop = us.map some →
    unitClash us = false → step s = .next (tick118 us s)

/-! ### Host commands and lifecycle -/

/-- NOP and the reserved command have no effect (R126, R127); START and STOP change only `life` (and START raises
`start_acc`), START only in IDLE and STOP only in RUNNING (R112, R113). -/
def Obligations.HostCommandEffects : Prop :=
  ∀ s : State,
    exec .nop s = .next s ∧ exec .hrsv s = .next s ∧
    (s.life = .idle → exec .start s = .next { s with life := .running, startAcc := true }) ∧
    (s.life ≠ .idle → exec .start s = .next s) ∧
    (s.life = .running → exec .stop s = .next { s with life := .stopped }) ∧
    (s.life ≠ .running → exec .stop s = .next s)

/-- R127: the block treats the reserved command exactly as NOP: the two give the same step, whatever else the tick
carries, and while RUNNING the life stays RUNNING. -/
def Obligations.ReservedCommandIsNop : Prop :=
  ∀ s, step (withHcmd 0b11#2 s) = step (withHcmd 0b00#2 s) ∧ exec .hrsv s = exec .nop s ∧
    (∀ t, s.life = .running → step (withHcmd 0b11#2 s) = .next t → t.life = .running)

/-- R119: the lifecycle tables for `life` and `loop`, and `p <- 0` when START is accepted. -/
def Obligations.LifecycleTables : Prop :=
  ∀ s t, BlockInv s → step s = .next t →
    t.life = lifeTable s.life (curIn s).hcmd ∧
    t.loop =
      (match s.loop with
        | .waiting => if startAccepted s then .active else .waiting
        | .active => if s.p = 0 ∧ lifeTable s.life (curIn s).hcmd = .stopped then .exited else .active
        | .exited => .exited) ∧
    (startAccepted s → t.p = 0)

/-- R124: once STOPPED, no command changes anything: two commands give the same tick. `life` stays STOPPED, EXITED and
WAITING are kept, over any run, whatever the inputs, a unit test bench's included. -/
def Obligations.NoRestartFromStopped : Prop :=
  (∀ s w v, s.life = .stopped → step (withHcmd w s) = step (withHcmd v s)) ∧
  ∀ n (s t : State), s.life = .stopped → Sys2Proof.core.run n s = .next t →
    t.life = .stopped ∧ (s.loop = .exited → t.loop = .exited) ∧ (s.loop = .waiting → t.loop = .waiting)

/-- R122: from an accepted START, position `p` of cycle `c` is tick `t0 + 1 + c*POLL_INTERVAL + p`, for as long as the
loop has not exited, and it does not exit without a STOP. -/
def Obligations.CycleTimingFromStart : Prop :=
  ∀ s c p, BlockInv s → startAccepted s → p < s.cfg.pollInterval →
    ∃ t : State, Sys2Proof.core.run (1 + c * s.cfg.pollInterval + p) s = .next t ∧
      t.tick = s.tick + 1 + c * s.cfg.pollInterval + p ∧
      (t.loop ≠ .exited → t.loop = .active ∧ t.p = p) ∧ ((∀ i ∈ s.inputs, i.hcmd ≠ 0b10#2) → t.loop ≠ .exited)

/-- R120: a STOP accepted in a tick makes the loop exit in that tick at a cycle top, and otherwise at the next top; the
exit shows on `loop_out` one tick later, with `state_out` still readable. -/
def Obligations.ExitLatencyAfterStop : Prop :=
  ∀ s, BlockInv s → s.loop = .active → s.life = .running → (curIn s).hcmd = 0b10#2 →
    let d := if s.p = 0 then 0 else s.cfg.pollInterval - s.p
    d < s.cfg.pollInterval ∧
    (∀ m ≤ d, ∃ t : State, Sys2Proof.core.run m s = .next t ∧ t.loop = .active) ∧
    ∃ t u : State, Sys2Proof.core.run (d + 1) s = .next t ∧ t.loop = .exited ∧ step t = .next u ∧
      u.out.loopOut = loopCode .exited ∧ u.out.stateOut = t.stable

/-- R121: past the top, a cycle runs to its end whatever the host sends and has sent: two commands, in RUNNING or in
STOPPED each, give steps that differ in `life` and `life_out` at most, and so do two runs up to the next top whose
inputs differ in the commands alone. At every top both generators are idle, and an exit leaves both lines at their
idle levels. -/
def Obligations.CycleIsNeverCut : Prop :=
  (∀ s l m w v, BlockInv s → s.loop = .active → s.p ≠ 0 → l ≠ .idle → m ≠ .idle →
    ∃ t u, step (withHcmd w { s with life := l }) = .next t ∧ step (withHcmd v { s with life := m }) = .next u ∧
      t.out.lifeOut = lifeCode l ∧ u.out.lifeOut = lifeCode m ∧
      u = { t with life := u.life, out := { t.out with lifeOut := u.out.lifeOut } }) ∧
  (∀ (s : State) l m i j n, BlockInv { s with inputs := i } → s.loop = .active → s.p ≠ 0 → l ≠ .idle → m ≠ .idle →
    SameButHcmd i j → n ≤ s.cfg.pollInterval - s.p →
    ∃ t u : State, Sys2Proof.core.run n { s with life := l, inputs := i } = .next t ∧
      Sys2Proof.core.run n { s with life := m, inputs := j } = .next u ∧
      t.loop = .active ∧ t.p = (s.p + n) % s.cfg.pollInterval ∧
      u = { t with life := u.life, inputs := u.inputs, out := { t.out with lifeOut := u.out.lifeOut } }) ∧
  (∀ s, BlockInv s → s.loop = .active → s.p = 0 → s.lgBusy = false ∧ s.cgBusy = false) ∧
  (∀ s t, BlockInv s → exitsNow s → step s = .next t → t.out.latchOut = false ∧ t.out.clockOut = true)

/-- R169: after the exit a tick changes no element but `slot_valid[i]`, which only a TAKE clears, and drives
`latch_out = 0` and `clock_out = 1`. -/
def Obligations.AfterTheExitOnlyTakeActs : Prop :=
  ∀ s t, BlockInv s → s.loop = .exited → step s = .next t →
    t = { s with slots := t.slots, inputs := s.inputs.tail, tick := s.tick + 1, out := t.out } ∧
    t.out.latchOut = false ∧ t.out.clockOut = true ∧ t.out.stateOut = s.stable ∧
    t.slots = s.slots.mapIdx fun n x => ⟨x.valid && !takeStrobe (curIn s) n, x.frame⟩

/-- R126: NOP has no effect, and with no START the block stays in IDLE with `state_out` at its reset value for ever. -/
def Obligations.WithoutStartTheBlockStaysIdle : Prop :=
  (∀ s, exec .nop s = .next s) ∧
  ∀ c l n (t : State), c.Legal → Composed { State.initial c with inputs := l } → (∀ i ∈ l, i.hcmd ≠ 0b01#2) →
    Sys2Proof.core.run n { State.initial c with inputs := l } = .next t →
    t.life = .idle ∧ t.loop = .waiting ∧ t.p = 0 ∧ t.stable = c.stableReset ∧ t.out.stateOut = c.stableReset ∧
      t.out.latchOut = false ∧ t.out.clockOut = true

/-! ### Controller -/

/-- U_TOP raises `exit` in STOPPED and does nothing otherwise (R114); U_WAIT does nothing (R115). -/
def Obligations.ControllerUopEffects : Prop :=
  ∀ s : State,
    exec .uWait s = .next s ∧
    (s.life = .stopped → exec .uTop s = .next { s with exitReq := true }) ∧
    (s.life ≠ .stopped → exec .uTop s = .next s)

/-- R116: what the schedule issues at each position, and U_WAIT exactly where nothing else is issued; of a legal set no
two positions coincide but `T0 = A(0)`, and every read lies inside the clock train. -/
def Obligations.ScheduleIssuesExactly : Prop :=
  (∀ c p i, i ∈ sched c p ↔
    (i = .uTop ∧ p = 0) ∨ (i = .uLatch ∧ p = 0) ∨ (i = .uClk16 ∧ p = c.t0) ∨
    (∃ k : BitIndex, i = .uSmpa k ∧ p = c.readA k.toNat) ∨ (∃ k : BitIndex, i = .uSmpb k ∧ p = c.readB k.toNat) ∨
    (i = .uAccept ∧ p = c.acceptPos) ∨ (i = .uReframe ∧ p = c.reframePos) ∨
    (i = .uWait ∧ p ≠ 0 ∧ p ≠ c.t0 ∧ p ≠ c.acceptPos ∧ p ≠ c.reframePos ∧
      ∀ k : BitIndex, p ≠ c.readA k.toNat ∧ p ≠ c.readB k.toNat)) ∧
  (∀ c p, c.Legal → 1 < (sched c p).length → p = 0 ∨ (p = c.t0 ∧ c.t0 = c.readA 0)) ∧
  (∀ c : Params, c.Legal → ∀ k < 16, c.t0 ≤ c.readA k ∧ c.readA k < c.readB k ∧ c.readB k < c.acceptPos)

/-- R70: a tick of the schedule never holds two micro-operations for one unit, nor more than two in all; where U_TOP and
U_LATCH share a tick, U_TOP may suppress U_LATCH. -/
def Obligations.ScheduleNeverClashes : Prop :=
  (∀ c p, c.Legal → unitClash (sched c p) = false ∧ (sched c p).length ≤ 2) ∧
  (∀ s t, BlockInv s → s.loop = .active → s.p = 0 → step s = .next t →
    t.out.latchOut = decide (lifeTable s.life (curIn s).hcmd ≠ .stopped))

/-- R75: the encoded default schedule, position by position. -/
def Obligations.DefaultScheduleWords : Prop :=
  ∀ p, p < 5000 →
    (sched Params.default p).map encode =
      if p = 0 then [.uop 0x10#8, .uop 0x20#8]
      else if p = 18 then [.uop 0x30#8, .uop 0x50#8]
      else if 18 < p ∧ p ≤ 198 ∧ (p - 18) % 12 = 0 then [.uop (0x50#8 ||| BitVec.ofNat 8 ((p - 18) / 12))]
      else if 19 ≤ p ∧ p ≤ 199 ∧ (p - 19) % 12 = 0 then [.uop (0x60#8 ||| BitVec.ofNat 8 ((p - 19) / 12))]
      else if p = 210 then [.uop 0x70#8]
      else if p = 211 then [.uop 0x80#8]
      else [.uop 0x00#8]

/-- R117: the advance of `loop` and `p` in every tick of the composed block; a START is accepted only in WAITING; and a
cycle is exactly `POLL_INTERVAL` ticks from top to top. -/
def Obligations.PositionAdvance : Prop :=
  (∀ s t, s.cfg.Legal → RangesOk s → (curIn s).bench = none → step s = .next t →
    (t.loop, t.p) =
      if startAccepted s then (.active, 0)
      else if s.loop = .active ∧ exitsNow s then (.exited, 0)
      else if s.loop = .active then (.active, (s.p + 1) % s.cfg.pollInterval)
      else (s.loop, 0)) ∧
  (∀ s, BlockInv s → startAccepted s → s.loop = .waiting) ∧
  (∀ s m (t : State), BlockInv s → s.loop = .active → s.p = 0 → Sys2Proof.core.run m s = .next t →
    t.loop = .active → t.p = m % s.cfg.pollInterval)

/-! ### Pulse generator -/

/-- U_LATCH, U_CLK16 and U_CLK17 start an idle generator and are ignored by a busy one (R82 to R84). -/
def Obligations.PulseCommandEffects : Prop :=
  ∀ s : State,
    (s.lgBusy = false → exec .uLatch s = .next { s with lgBusy := true, lgQ := 0 }) ∧
    (s.lgBusy = true → exec .uLatch s = .next s) ∧
    (s.cgBusy = false → exec .uClk16 s = .next { s with cgBusy := true, cgQ := 0, cgN := .p16 }) ∧
    (s.cgBusy = true → exec .uClk16 s = .next s) ∧
    (s.cgBusy = false → exec .uClk17 s = .next { s with cgBusy := true, cgQ := 0, cgN := .p17 }) ∧
    (s.cgBusy = true → exec .uClk17 s = .next s)

/-- R80: a generator that is not busy and gets no command in the tick leaves its line at its idle level, in every
state of the lifecycle, test benches included. -/
def Obligations.IdleLinesRestAtIdleLevels : Prop :=
  ∀ s us t, s.cfg.Legal → RangesOk s → TickUops s us → step s = .next t →
    (s.lgBusy = false → .uLatch ∉ us → t.out.latchOut = false) ∧
    (s.cgBusy = false → .uClk16 ∉ us → .uClk17 ∉ us → t.out.clockOut = true)

/-- A latch pulse lasts exactly `LATCH_WIDTH` ticks and a train of 16 or 17 pulses exactly `cgn*CLK_PERIOD`, each pulse
`CLK_LOW` ticks low and then high, ending high (R81 to R86). -/
def Obligations.PulseAndTrainLast : Prop :=
  ∀ s n, s.cfg.Legal →
    (s.lgBusy = false →
      (∀ m < s.cfg.latchWidth, (advanceLatch^[m] (startLatch s)).lgBusy = true ∧
        (advanceLatch^[m] (startLatch s)).lgQ = m) ∧
      (advanceLatch^[s.cfg.latchWidth] (startLatch s)).lgBusy = false ∧
      (advanceLatch^[s.cfg.latchWidth] (startLatch s)).lgQ = 0) ∧
    (s.cgBusy = false →
      (∀ m < pulseCount n * s.cfg.clkPeriod,
        (advanceClock^[m] (startTrain n s)).cgBusy = true ∧
        ((driveLines (advanceClock^[m] (startTrain n s))).out.clockOut = false ↔
          m % s.cfg.clkPeriod < s.cfg.clkLow)) ∧
      (driveLines (advanceClock^[pulseCount n * s.cfg.clkPeriod - 1] (startTrain n s))).out.clockOut = true ∧
      (advanceClock^[pulseCount n * s.cfg.clkPeriod] (startTrain n s)).cgBusy = false ∧
      (advanceClock^[pulseCount n * s.cfg.clkPeriod] (startTrain n s)).cgN = n)

/-- The levels of both lines in every tick, by the cycle position alone (R81, R87). -/
def Obligations.LineLevelsByPosition : Prop :=
  ∀ s t, BlockInv s → step s = .next t →
    t.out.latchOut = decide (s.loop = .active ∧ s.p < s.cfg.latchWidth ∧ ¬ exitsNow s) ∧
    t.out.clockOut = !decide (clockLowNow s)

/-- R87: the edges within a poll cycle, in cycle positions, and no others; the two lines never change in the same
tick. -/
def Obligations.EdgesWithinACycle : Prop :=
  ∀ s t u, BlockInv s → step s = .next t → step t = .next u →
    (t.out.latchOut = false ∧ u.out.latchOut = true ↔ t.loop = .active ∧ t.p = 0 ∧ ¬ exitsNow t) ∧
    (t.out.latchOut = true ∧ u.out.latchOut = false ↔ t.loop = .active ∧ t.p = t.cfg.latchWidth) ∧
    (t.out.clockOut = true ∧ u.out.clockOut = false ↔ t.loop = .active ∧ ∃ j < 16, t.p = t.cfg.fallAt j) ∧
    (t.out.clockOut = false ∧ u.out.clockOut = true ↔ t.loop = .active ∧ ∃ j < 16, t.p = t.cfg.riseAt j) ∧
    (t.loop = .active → t.p = t.cfg.acceptPos → t.cgBusy = false ∧ u.out.clockOut = true) ∧
    ¬ (t.out.latchOut ≠ u.out.latchOut ∧ t.out.clockOut ≠ u.out.clockOut)

/-! ### Sampler -/

/-- U_SMPA writes the read of the line to `smp_a` and nothing else (R92); U_SMPB writes the AND of both reads to bit `k`
and nothing else (R93). -/
def Obligations.SamplerUopEffects : Prop :=
  ∀ k s,
    exec (.uSmpa k) s = .next { s with smpA := dataAt s 0 } ∧
    ∃ t, exec (.uSmpb k) s = .next t ∧ t = { s with smpFrame := t.smpFrame } ∧
      ∀ j < 16, t.smpFrame.getLsbD j = if j = k.toNat then s.smpA && dataAt s 0 else s.smpFrame.getLsbD j

/-- R95: the read policy, a first read by U_SMPA in a state and a second by U_SMPB in one that keeps `smp_a`: the bit is
1 only for (1, 1). -/
def Obligations.ReadPolicy : Prop :=
  ∀ k s a u t, exec (.uSmpa k) s = .next a → u.smpA = a.smpA → exec (.uSmpb k) u = .next t →
    (t.smpFrame.getLsbD k.toNat = true ↔ dataAt s 0 = true ∧ dataAt u 0 = true)

/-- One frame per cycle: after the sampling positions, bit `k` of `smp_frame` is the AND of the line at `A(k)` and at
`B(k)`, for all 16 bits, reserved ones included (R94, R96); so a peer that holds its bits at the reads is captured
(R156). -/
def Obligations.FrameOfACycle : Prop :=
  ∀ s, BlockInv s → s.loop = .active → s.p = 0 → s.life = .running → (curIn s).hcmd ≠ 0b10#2 →
    ∃ t : State, Sys2Proof.core.run s.cfg.acceptPos s = .next t ∧ t.p = s.cfg.acceptPos ∧
      (∀ k < 16, t.smpFrame.getLsbD k = (dataAt s (s.cfg.readA k) && dataAt s (s.cfg.readB k))) ∧
      (∀ f, PeerHolds s f → t.smpFrame = f)

/-- The block reads `data_in` only at the positions `A(k)` and `B(k)` of a running cycle: in any other tick the level has
no effect at all (R94, R156). -/
def Obligations.LineIsReadOnlyAtItsPositions : Prop :=
  ∀ s b, s.cfg.Legal → RangesOk s → (curIn s).bench = none →
    (s.loop = .active → ∀ k < 16, s.p ≠ s.cfg.readA k ∧ s.p ≠ s.cfg.readB k) →
    step (withData b s) = step s

/-- A line held high gives frames 0xFFFF and a stable state of 0xFFFF for ever (R97, R135), whatever the host and the
peripherals do. -/
def Obligations.StuckHighLineHoldsAllOnes : Prop :=
  ∀ c l n (t : State), c.Legal → c.stableReset = 0xFFFF#16 → Composed { State.initial c with inputs := l } →
    (∀ i ∈ l, i.data = some true) → n ≤ l.length →
    Sys2Proof.core.run n { State.initial c with inputs := l } = .next t →
    t.smpFrame = 0xFFFF#16 ∧ t.stable = 0xFFFF#16

/-! ### Filter -/

/-- U_ACCEPT (R99): the frame goes to `win[vote_ctr]`; the first two calls of a window count on and clear both flags;
the third compares whole frames, replaces `stable` only on agreement, and closes the window. Its word is `0x70`. -/
def Obligations.AcceptEffect : Prop :=
  decode 1 (.uop 0x70#8) = .op .uAccept ∧ ∀ s : State,
    (s.voteCtr = 0 → exec .uAccept s =
      .next { s with win0 := s.smpFrame, voteCtr := 1, lastEval := false, lastAgree := false }) ∧
    (s.voteCtr = 1 → exec .uAccept s =
      .next { s with win1 := s.smpFrame, voteCtr := 2, lastEval := false, lastAgree := false }) ∧
    (s.voteCtr = 2 → s.win0 = s.win1 → s.win1 = s.smpFrame → exec .uAccept s =
      .next { s with win2 := s.smpFrame, stable := s.smpFrame, voteCtr := 0, lastEval := true, lastAgree := true }) ∧
    (s.voteCtr = 2 → ¬ (s.win0 = s.win1 ∧ s.win1 = s.smpFrame) → exec .uAccept s =
      .next { s with win2 := s.smpFrame, voteCtr := 0, lastEval := true, lastAgree := false })

/-- R102, R103: over the three calls of a window, three identical frames become the stable state in the third call, and
any difference leaves it unchanged, whatever happens to the rest of the state between the calls: the states `u` and `v`
of the second and third call keep only the places already written, `vote_ctr` and `stable`. -/
def Obligations.VoteOverAWindow : Prop :=
  ∀ s a u b v c : State, s.voteCtr = 0 →
    exec .uAccept s = .next a →
    u.win0 = a.win0 → u.voteCtr = a.voteCtr → u.stable = a.stable → exec .uAccept u = .next b →
    v.win0 = b.win0 → v.win1 = b.win1 → v.voteCtr = b.voteCtr → v.stable = b.stable → exec .uAccept v = .next c →
    a.stable = s.stable ∧ b.stable = s.stable ∧ c.voteCtr = 0 ∧ c.lastEval = true ∧
    (s.smpFrame = u.smpFrame → u.smpFrame = v.smpFrame → c.stable = s.smpFrame ∧ c.lastAgree = true) ∧
    (¬ (s.smpFrame = u.smpFrame ∧ u.smpFrame = v.smpFrame ∧ s.smpFrame = v.smpFrame) →
      c.stable = s.stable ∧ c.lastAgree = false)

/-- R31: in the composed block `stable` is mutated only by the filter's third call of a window, at the ACCEPT position,
and only where the three frames are bit-for-bit identical. -/
def Obligations.StableMutatedOnlyByAgreement : Prop :=
  ∀ s t, s.cfg.Legal → RangesOk s → (curIn s).bench = none → step s = .next t → t.stable ≠ s.stable →
    s.loop = .active ∧ s.p = s.cfg.acceptPos ∧ s.voteCtr = 2 ∧ s.win0 = s.win1 ∧ s.win1 = s.smpFrame ∧
    t.stable = s.smpFrame

/-- R160: `stable` changes at most once per 3 cycles, that is at most once per `3*POLL_INTERVAL` ticks. -/
def Obligations.StableUpdateRate : Prop :=
  ∀ (s t : State) n (u : State), BlockInv s → step s = .next t → t.stable ≠ s.stable → n < 3 * s.cfg.pollInterval →
    Sys2Proof.core.run n t = .next u → u.stable = t.stable

/-- The reset contents of the sampler and the window never reach an output (R44, R152): runs from reset that differ in
them alone drive the same outputs in every tick. -/
def Obligations.SamplerResetValuesAreNeverObserved : Prop :=
  ∀ c l n a f w0 w1 w2 (t u : State), c.Legal → Composed { State.initial c with inputs := l } →
    Sys2Proof.core.run n { State.initial c with inputs := l } = .next t →
    Sys2Proof.core.run n (withSampler a f w0 w1 w2 { State.initial c with inputs := l }) = .next u →
    u.out = t.out ∧ u.stable = t.stable ∧ u.slots = t.slots

/-! ### Re-framer and ports -/

/-- R107: the re-framing function; its bits are those of R49: a dummy 0, then the stable state in order. -/
def Obligations.ReframeFunction : Prop :=
  ∀ v : Word16,
    reframe v = (v.zeroExtend 17 <<< 1) &&& 0x1FFFE#17 ∧ (reframe v).toNat = 2 * v.toNat ∧
    (reframe v).getLsbD 0 = false ∧ (∀ j < 16, (reframe v).getLsbD (j + 1) = v.getLsbD j)

/-- U_REFRAME writes every slot where the window closed and nothing otherwise (R106); TAKE hands over a valid frame,
clears `slot_valid[i]` and keeps the frame, and does nothing without one (R110); READ_STATE drives `state_out` and
changes nothing else (R125). An index that is no wire of R65 has no meaning, and that the operation refuses it is the
model's own (log entry 24, DEDUCED). -/
def Obligations.PortOperationEffects : Prop :=
  ∀ s : State,
    (s.lastEval = true → exec .uReframe s =
      .next { s with slots := List.replicate s.slots.length ⟨true, reframe s.stable⟩ }) ∧
    (s.lastEval = false → exec .uReframe s = .next s) ∧
    (∀ i x, s.slots[i]? = some x → x.valid = true → ∃ t, exec (.take i) s = .next t ∧
      t = { s with slots := t.slots, out := { s.out with handed := t.out.handed } } ∧
      t.slots.length = s.slots.length ∧ (∀ j : Nat, t.slots[j]? = if j = i then some ⟨false, x.frame⟩ else s.slots[j]?) ∧
      (∀ j : Nat, j < s.out.handed.length →
        t.out.handed[j]? = if j = i then some (some x.frame) else s.out.handed[j]?)) ∧
    (∀ i x, s.slots[i]? = some x → x.valid = false → exec (.take i) s = .next s) ∧
    (∀ i, s.slots.length ≤ i → exec (.take i) s = .refused (.noSuchPort i)) ∧
    exec .readState s = .next { s with out := { s.out with stateOut := s.stable } }

/-- R111: TAKE and U_REFRAME in one tick, port by port: the TAKE hands over the start-of-tick frame, then the write takes
effect. -/
def Obligations.TakeAndReframeInOneTick : Prop :=
  ∀ s t n x, s.cfg.Legal → RangesOk s → (curIn s).bench = none → step s = .next t → s.slots[n]? = some x →
    t.slots[n]? = some
      (if s.loop = .active ∧ s.p = s.cfg.reframePos ∧ s.lastEval = true then ⟨true, reframe s.stable⟩
        else ⟨if takeStrobe (curIn s) n = true ∧ x.valid = true then false else x.valid, x.frame⟩) ∧
    t.out.handed[n]? = some (if takeStrobe (curIn s) n = true ∧ x.valid = true then some x.frame else none)

/-- R37 to R39: the registered outputs of a tick show the state at its start, whole, whatever the tick does. -/
def Obligations.RegisteredOutputs : Prop :=
  ∀ s t, step s = .next t →
    t.out.stateOut = s.stable ∧ t.out.lifeOut = lifeCode s.life ∧ t.out.loopOut = loopCode s.loop ∧
    t.out.txValid = s.slots.map Slot.valid ∧ t.out.txData = s.slots.map Slot.frame

/-- R58: in a cycle that closes a window, the new `stable` is on `state_out` one tick after U_ACCEPT, where `tx_data` is
still the old one, and in the slots two ticks after it. From then on `tx_data[i] = reframe(state_out)` in every tick up
to the next U_ACCEPT that closes a window, 3 cycles after this one, and beyond it as long as `stable` is the same. -/
def Obligations.SlotsFollowStableByOneTick : Prop :=
  ∀ s, BlockInv s → s.loop = .active → s.p = s.cfg.acceptPos → s.voteCtr = 2 →
    ∃ t u, step s = .next t ∧ step t = .next u ∧
      t.out.stateOut = s.stable ∧ u.out.stateOut = t.stable ∧ u.out.txData = s.slots.map Slot.frame ∧
      (∀ x ∈ u.slots, x = ⟨true, reframe t.stable⟩) ∧
      ∀ n, (n + 2 ≤ 3 * s.cfg.pollInterval ∨
          ∀ j ≤ n, ∀ v : State, Sys2Proof.core.run j u = .next v → v.stable = t.stable) →
        ∃ v w : State, Sys2Proof.core.run n u = .next v ∧ step v = .next w ∧ w.out.stateOut = t.stable ∧
          ∀ d ∈ w.out.txData, d = reframe w.out.stateOut

/-- R104, R123: windows do not overlap and are counted from construction: before the U_ACCEPT of cycle `c` after START,
`vote_ctr` is `c mod 3`; and the slots are written at position `PR` of the cycles `c = 3m + 2` and of no others, with
`Reframe(stable)`, `stable` as that cycle's U_ACCEPT left it. -/
def Obligations.TransmissionCycles : Prop :=
  ∀ s c, BlockInv s → startAccepted s → s.voteCtr = 0 → (∀ i ∈ s.inputs, i.hcmd ≠ 0b10#2) →
    (∃ t : State, Sys2Proof.core.run (1 + c * s.cfg.pollInterval + s.cfg.acceptPos) s = .next t ∧
      t.p = s.cfg.acceptPos ∧ t.voteCtr.val = c % 3) ∧
    ∃ t u : State, Sys2Proof.core.run (1 + c * s.cfg.pollInterval + s.cfg.reframePos) s = .next t ∧ step t = .next u ∧
      (c % 3 = 2 → ∀ x ∈ u.slots, x = ⟨true, reframe t.stable⟩) ∧
      (c % 3 ≠ 2 → u.slots.map Slot.frame = t.slots.map Slot.frame)

/-- R168: from construction, `stable` keeps its reset value up to the U_ACCEPT of cycle 2, and the slots are empty up to
the U_REFRAME of cycle 2, at the earliest: whenever START arrives, if it does, and whatever else the host sends. -/
def Obligations.ColdStart : Prop :=
  ∀ c l n (t : State), c.Legal → Composed { State.initial c with inputs := l } →
    Sys2Proof.core.run n { State.initial c with inputs := l } = .next t →
    (n ≤ 1 + 2 * c.pollInterval + c.acceptPos → t.stable = c.stableReset) ∧
    (n ≤ 1 + 2 * c.pollInterval + c.reframePos → ∀ x ∈ t.slots, x = ⟨false, 0x00000#17⟩)

/-! ### Whole machine -/

/-- R20, the column "written by": each element changes only in the operations it names. -/
def Obligations.WrittenByColumn : Prop :=
  ∀ i s t, exec i s = .next t →
    t.cfg = s.cfg ∧ t.loop = s.loop ∧ t.p = s.p ∧ t.inputs = s.inputs ∧ t.tick = s.tick ∧
    (t.life ≠ s.life → i = .start ∨ i = .stop) ∧
    (t.lgBusy ≠ s.lgBusy ∨ t.lgQ ≠ s.lgQ → i = .uLatch) ∧
    (t.cgBusy ≠ s.cgBusy ∨ t.cgQ ≠ s.cgQ ∨ t.cgN ≠ s.cgN → i = .uClk16 ∨ i = .uClk17) ∧
    (t.smpA ≠ s.smpA → ∃ k, i = .uSmpa k) ∧ (t.smpFrame ≠ s.smpFrame → ∃ k, i = .uSmpb k) ∧
    (t.win0 ≠ s.win0 ∨ t.win1 ≠ s.win1 ∨ t.win2 ≠ s.win2 ∨ t.voteCtr ≠ s.voteCtr ∨ t.stable ≠ s.stable ∨
      t.lastEval ≠ s.lastEval ∨ t.lastAgree ≠ s.lastAgree → i = .uAccept) ∧
    (t.slots.map Slot.valid ≠ s.slots.map Slot.valid → i = .uReframe ∨ ∃ n, i = .take n) ∧
    (t.slots.map Slot.frame ≠ s.slots.map Slot.frame → i = .uReframe)

/-- R43: the parameters are fixed at construction; no tick of any kind, and no operation, changes them. -/
def Obligations.ParametersNeverChange : Prop :=
  (∀ s t, step s = .next t → t.cfg = s.cfg) ∧ (∀ i s t, exec i s = .next t → t.cfg = s.cfg)

/-- The reset state of every legal parameter set meets the invariant, with any composed inputs pending. -/
def Obligations.ResetMeetsTheInvariant : Prop :=
  BlockInv State.reset ∧ ∀ c l, c.Legal → (∀ i ∈ l, TickIn.bench i = none) → BlockInv { State.initial c with inputs := l }

/-- R42: the invariants of every reachable state, with the positions of the waveforms: every step of the composed block
keeps them, from every state that has them. -/
def Obligations.EveryStepKeepsTheInvariant : Prop :=
  ∀ s t, BlockInv s → step s = .next t → BlockInv t

/-- No rule produces an unreachable value (R41): every tick, a unit test bench's included, leaves the parameters legal,
every element in its range and the combinational values at 0. -/
def Obligations.EveryTickKeepsTheRanges : Prop :=
  ∀ s t, step s = .next t → t.cfg.Legal ∧ RangesOk t ∧ t.startAcc = false ∧ t.exitReq = false

/-! ### The steps behind runs from construction -/

/-- R44, R152, in one step of any two states: where the sampler and the window differ only in what the block overwrites
before it reads it, the step drives the same outputs, leaves the same `stable` and slots, and again such a difference. -/
def Obligations.UnreadSamplerContentsStayHidden : Prop :=
  ∀ a b t, BlockInv a → SamplerAlike a b → step a = .next t →
    ∃ u, step b = .next u ∧ SamplerAlike t u ∧ u.out = t.out ∧ u.stable = t.stable ∧ u.slots = t.slots

/-- R168: every step keeps the invariant of the cold start, whenever START arrives, if it does, and whatever else the
host sends. -/
def Obligations.EveryStepKeepsTheColdStart : Prop :=
  ∀ s t, BlockInv s → ColdStartInv s → step s = .next t → ColdStartInv t

/-- Every constructed instance meets the invariant of the cold start, with any inputs pending. -/
def Obligations.ConstructionMeetsTheColdStart : Prop :=
  ∀ c s l, construct c true = .next s → ColdStartInv { s with inputs := l }
end

