-- ==== Sys2Proof/Laws/State.lean ====
section
/-! SUPPORT. What each shared update leaves alone: one lemma for each field it does not write, so that no later proof
unfolds an update to see past it; and the fields it writes unconditionally. -/

namespace Sys2Proof.Machine

variable (s : State)

@[simp] theorem beginTick_cfg : (beginTick s).cfg = s.cfg := rfl
@[simp] theorem beginTick_life : (beginTick s).life = s.life := rfl
@[simp] theorem beginTick_loop : (beginTick s).loop = s.loop := rfl
@[simp] theorem beginTick_p : (beginTick s).p = s.p := rfl
@[simp] theorem beginTick_lgBusy : (beginTick s).lgBusy = s.lgBusy := rfl
@[simp] theorem beginTick_lgQ : (beginTick s).lgQ = s.lgQ := rfl
@[simp] theorem beginTick_cgBusy : (beginTick s).cgBusy = s.cgBusy := rfl
@[simp] theorem beginTick_cgQ : (beginTick s).cgQ = s.cgQ := rfl
@[simp] theorem beginTick_cgN : (beginTick s).cgN = s.cgN := rfl
@[simp] theorem beginTick_smpA : (beginTick s).smpA = s.smpA := rfl
@[simp] theorem beginTick_smpFrame : (beginTick s).smpFrame = s.smpFrame := rfl
@[simp] theorem beginTick_win0 : (beginTick s).win0 = s.win0 := rfl
@[simp] theorem beginTick_win1 : (beginTick s).win1 = s.win1 := rfl
@[simp] theorem beginTick_win2 : (beginTick s).win2 = s.win2 := rfl
@[simp] theorem beginTick_voteCtr : (beginTick s).voteCtr = s.voteCtr := rfl
@[simp] theorem beginTick_stable : (beginTick s).stable = s.stable := rfl
@[simp] theorem beginTick_lastEval : (beginTick s).lastEval = s.lastEval := rfl
@[simp] theorem beginTick_lastAgree : (beginTick s).lastAgree = s.lastAgree := rfl
@[simp] theorem beginTick_slots : (beginTick s).slots = s.slots := rfl
@[simp] theorem beginTick_inputs : (beginTick s).inputs = s.inputs := rfl
@[simp] theorem beginTick_tick : (beginTick s).tick = s.tick := rfl

@[simp] theorem driveState_cfg : (driveState s).cfg = s.cfg := rfl
@[simp] theorem driveState_life : (driveState s).life = s.life := rfl
@[simp] theorem driveState_loop : (driveState s).loop = s.loop := rfl
@[simp] theorem driveState_p : (driveState s).p = s.p := rfl
@[simp] theorem driveState_lgBusy : (driveState s).lgBusy = s.lgBusy := rfl
@[simp] theorem driveState_lgQ : (driveState s).lgQ = s.lgQ := rfl
@[simp] theorem driveState_cgBusy : (driveState s).cgBusy = s.cgBusy := rfl
@[simp] theorem driveState_cgQ : (driveState s).cgQ = s.cgQ := rfl
@[simp] theorem driveState_cgN : (driveState s).cgN = s.cgN := rfl
@[simp] theorem driveState_smpA : (driveState s).smpA = s.smpA := rfl
@[simp] theorem driveState_smpFrame : (driveState s).smpFrame = s.smpFrame := rfl
@[simp] theorem driveState_win0 : (driveState s).win0 = s.win0 := rfl
@[simp] theorem driveState_win1 : (driveState s).win1 = s.win1 := rfl
@[simp] theorem driveState_win2 : (driveState s).win2 = s.win2 := rfl
@[simp] theorem driveState_voteCtr : (driveState s).voteCtr = s.voteCtr := rfl
@[simp] theorem driveState_stable : (driveState s).stable = s.stable := rfl
@[simp] theorem driveState_lastEval : (driveState s).lastEval = s.lastEval := rfl
@[simp] theorem driveState_lastAgree : (driveState s).lastAgree = s.lastAgree := rfl
@[simp] theorem driveState_slots : (driveState s).slots = s.slots := rfl
@[simp] theorem driveState_startAcc : (driveState s).startAcc = s.startAcc := rfl
@[simp] theorem driveState_exitReq : (driveState s).exitReq = s.exitReq := rfl
@[simp] theorem driveState_inputs : (driveState s).inputs = s.inputs := rfl
@[simp] theorem driveState_tick : (driveState s).tick = s.tick := rfl

@[simp] theorem driveLines_cfg : (driveLines s).cfg = s.cfg := rfl
@[simp] theorem driveLines_life : (driveLines s).life = s.life := rfl
@[simp] theorem driveLines_loop : (driveLines s).loop = s.loop := rfl
@[simp] theorem driveLines_p : (driveLines s).p = s.p := rfl
@[simp] theorem driveLines_lgBusy : (driveLines s).lgBusy = s.lgBusy := rfl
@[simp] theorem driveLines_lgQ : (driveLines s).lgQ = s.lgQ := rfl
@[simp] theorem driveLines_cgBusy : (driveLines s).cgBusy = s.cgBusy := rfl
@[simp] theorem driveLines_cgQ : (driveLines s).cgQ = s.cgQ := rfl
@[simp] theorem driveLines_cgN : (driveLines s).cgN = s.cgN := rfl
@[simp] theorem driveLines_smpA : (driveLines s).smpA = s.smpA := rfl
@[simp] theorem driveLines_smpFrame : (driveLines s).smpFrame = s.smpFrame := rfl
@[simp] theorem driveLines_win0 : (driveLines s).win0 = s.win0 := rfl
@[simp] theorem driveLines_win1 : (driveLines s).win1 = s.win1 := rfl
@[simp] theorem driveLines_win2 : (driveLines s).win2 = s.win2 := rfl
@[simp] theorem driveLines_voteCtr : (driveLines s).voteCtr = s.voteCtr := rfl
@[simp] theorem driveLines_stable : (driveLines s).stable = s.stable := rfl
@[simp] theorem driveLines_lastEval : (driveLines s).lastEval = s.lastEval := rfl
@[simp] theorem driveLines_lastAgree : (driveLines s).lastAgree = s.lastAgree := rfl
@[simp] theorem driveLines_slots : (driveLines s).slots = s.slots := rfl
@[simp] theorem driveLines_startAcc : (driveLines s).startAcc = s.startAcc := rfl
@[simp] theorem driveLines_exitReq : (driveLines s).exitReq = s.exitReq := rfl
@[simp] theorem driveLines_inputs : (driveLines s).inputs = s.inputs := rfl
@[simp] theorem driveLines_tick : (driveLines s).tick = s.tick := rfl

@[simp] theorem startLatch_cfg : (startLatch s).cfg = s.cfg := by unfold startLatch; split <;> rfl
@[simp] theorem startLatch_life : (startLatch s).life = s.life := by unfold startLatch; split <;> rfl
@[simp] theorem startLatch_loop : (startLatch s).loop = s.loop := by unfold startLatch; split <;> rfl
@[simp] theorem startLatch_p : (startLatch s).p = s.p := by unfold startLatch; split <;> rfl
@[simp] theorem startLatch_cgBusy : (startLatch s).cgBusy = s.cgBusy := by unfold startLatch; split <;> rfl
@[simp] theorem startLatch_cgQ : (startLatch s).cgQ = s.cgQ := by unfold startLatch; split <;> rfl
@[simp] theorem startLatch_cgN : (startLatch s).cgN = s.cgN := by unfold startLatch; split <;> rfl
@[simp] theorem startLatch_smpA : (startLatch s).smpA = s.smpA := by unfold startLatch; split <;> rfl
@[simp] theorem startLatch_smpFrame : (startLatch s).smpFrame = s.smpFrame := by unfold startLatch; split <;> rfl
@[simp] theorem startLatch_win0 : (startLatch s).win0 = s.win0 := by unfold startLatch; split <;> rfl
@[simp] theorem startLatch_win1 : (startLatch s).win1 = s.win1 := by unfold startLatch; split <;> rfl
@[simp] theorem startLatch_win2 : (startLatch s).win2 = s.win2 := by unfold startLatch; split <;> rfl
@[simp] theorem startLatch_voteCtr : (startLatch s).voteCtr = s.voteCtr := by unfold startLatch; split <;> rfl
@[simp] theorem startLatch_stable : (startLatch s).stable = s.stable := by unfold startLatch; split <;> rfl
@[simp] theorem startLatch_lastEval : (startLatch s).lastEval = s.lastEval := by unfold startLatch; split <;> rfl
@[simp] theorem startLatch_lastAgree : (startLatch s).lastAgree = s.lastAgree := by unfold startLatch; split <;> rfl
@[simp] theorem startLatch_slots : (startLatch s).slots = s.slots := by unfold startLatch; split <;> rfl
@[simp] theorem startLatch_startAcc : (startLatch s).startAcc = s.startAcc := by unfold startLatch; split <;> rfl
@[simp] theorem startLatch_exitReq : (startLatch s).exitReq = s.exitReq := by unfold startLatch; split <;> rfl
@[simp] theorem startLatch_inputs : (startLatch s).inputs = s.inputs := by unfold startLatch; split <;> rfl
@[simp] theorem startLatch_tick : (startLatch s).tick = s.tick := by unfold startLatch; split <;> rfl
@[simp] theorem startLatch_out : (startLatch s).out = s.out := by unfold startLatch; split <;> rfl

@[simp] theorem startTrain_cfg (n : PulseCount) : (startTrain n s).cfg = s.cfg := by unfold startTrain; split <;> rfl
@[simp] theorem startTrain_life (n : PulseCount) : (startTrain n s).life = s.life := by unfold startTrain; split <;> rfl
@[simp] theorem startTrain_loop (n : PulseCount) : (startTrain n s).loop = s.loop := by unfold startTrain; split <;> rfl
@[simp] theorem startTrain_p (n : PulseCount) : (startTrain n s).p = s.p := by unfold startTrain; split <;> rfl
@[simp] theorem startTrain_lgBusy (n : PulseCount) : (startTrain n s).lgBusy = s.lgBusy := by unfold startTrain; split <;> rfl
@[simp] theorem startTrain_lgQ (n : PulseCount) : (startTrain n s).lgQ = s.lgQ := by unfold startTrain; split <;> rfl
@[simp] theorem startTrain_smpA (n : PulseCount) : (startTrain n s).smpA = s.smpA := by unfold startTrain; split <;> rfl
@[simp] theorem startTrain_smpFrame (n : PulseCount) : (startTrain n s).smpFrame = s.smpFrame := by unfold startTrain; split <;> rfl
@[simp] theorem startTrain_win0 (n : PulseCount) : (startTrain n s).win0 = s.win0 := by unfold startTrain; split <;> rfl
@[simp] theorem startTrain_win1 (n : PulseCount) : (startTrain n s).win1 = s.win1 := by unfold startTrain; split <;> rfl
@[simp] theorem startTrain_win2 (n : PulseCount) : (startTrain n s).win2 = s.win2 := by unfold startTrain; split <;> rfl
@[simp] theorem startTrain_voteCtr (n : PulseCount) : (startTrain n s).voteCtr = s.voteCtr := by unfold startTrain; split <;> rfl
@[simp] theorem startTrain_stable (n : PulseCount) : (startTrain n s).stable = s.stable := by unfold startTrain; split <;> rfl
@[simp] theorem startTrain_lastEval (n : PulseCount) : (startTrain n s).lastEval = s.lastEval := by unfold startTrain; split <;> rfl
@[simp] theorem startTrain_lastAgree (n : PulseCount) : (startTrain n s).lastAgree = s.lastAgree := by unfold startTrain; split <;> rfl
@[simp] theorem startTrain_slots (n : PulseCount) : (startTrain n s).slots = s.slots := by unfold startTrain; split <;> rfl
@[simp] theorem startTrain_startAcc (n : PulseCount) : (startTrain n s).startAcc = s.startAcc := by unfold startTrain; split <;> rfl
@[simp] theorem startTrain_exitReq (n : PulseCount) : (startTrain n s).exitReq = s.exitReq := by unfold startTrain; split <;> rfl
@[simp] theorem startTrain_inputs (n : PulseCount) : (startTrain n s).inputs = s.inputs := by unfold startTrain; split <;> rfl
@[simp] theorem startTrain_tick (n : PulseCount) : (startTrain n s).tick = s.tick := by unfold startTrain; split <;> rfl
@[simp] theorem startTrain_out (n : PulseCount) : (startTrain n s).out = s.out := by unfold startTrain; split <;> rfl

@[simp] theorem advanceLatch_cfg : (advanceLatch s).cfg = s.cfg := rfl
@[simp] theorem advanceLatch_life : (advanceLatch s).life = s.life := rfl
@[simp] theorem advanceLatch_loop : (advanceLatch s).loop = s.loop := rfl
@[simp] theorem advanceLatch_p : (advanceLatch s).p = s.p := rfl
@[simp] theorem advanceLatch_cgBusy : (advanceLatch s).cgBusy = s.cgBusy := rfl
@[simp] theorem advanceLatch_cgQ : (advanceLatch s).cgQ = s.cgQ := rfl
@[simp] theorem advanceLatch_cgN : (advanceLatch s).cgN = s.cgN := rfl
@[simp] theorem advanceLatch_smpA : (advanceLatch s).smpA = s.smpA := rfl
@[simp] theorem advanceLatch_smpFrame : (advanceLatch s).smpFrame = s.smpFrame := rfl
@[simp] theorem advanceLatch_win0 : (advanceLatch s).win0 = s.win0 := rfl
@[simp] theorem advanceLatch_win1 : (advanceLatch s).win1 = s.win1 := rfl
@[simp] theorem advanceLatch_win2 : (advanceLatch s).win2 = s.win2 := rfl
@[simp] theorem advanceLatch_voteCtr : (advanceLatch s).voteCtr = s.voteCtr := rfl
@[simp] theorem advanceLatch_stable : (advanceLatch s).stable = s.stable := rfl
@[simp] theorem advanceLatch_lastEval : (advanceLatch s).lastEval = s.lastEval := rfl
@[simp] theorem advanceLatch_lastAgree : (advanceLatch s).lastAgree = s.lastAgree := rfl
@[simp] theorem advanceLatch_slots : (advanceLatch s).slots = s.slots := rfl
@[simp] theorem advanceLatch_startAcc : (advanceLatch s).startAcc = s.startAcc := rfl
@[simp] theorem advanceLatch_exitReq : (advanceLatch s).exitReq = s.exitReq := rfl
@[simp] theorem advanceLatch_inputs : (advanceLatch s).inputs = s.inputs := rfl
@[simp] theorem advanceLatch_tick : (advanceLatch s).tick = s.tick := rfl
@[simp] theorem advanceLatch_out : (advanceLatch s).out = s.out := rfl

@[simp] theorem advanceClock_cfg : (advanceClock s).cfg = s.cfg := rfl
@[simp] theorem advanceClock_life : (advanceClock s).life = s.life := rfl
@[simp] theorem advanceClock_loop : (advanceClock s).loop = s.loop := rfl
@[simp] theorem advanceClock_p : (advanceClock s).p = s.p := rfl
@[simp] theorem advanceClock_lgBusy : (advanceClock s).lgBusy = s.lgBusy := rfl
@[simp] theorem advanceClock_lgQ : (advanceClock s).lgQ = s.lgQ := rfl
@[simp] theorem advanceClock_cgN : (advanceClock s).cgN = s.cgN := rfl
@[simp] theorem advanceClock_smpA : (advanceClock s).smpA = s.smpA := rfl
@[simp] theorem advanceClock_smpFrame : (advanceClock s).smpFrame = s.smpFrame := rfl
@[simp] theorem advanceClock_win0 : (advanceClock s).win0 = s.win0 := rfl
@[simp] theorem advanceClock_win1 : (advanceClock s).win1 = s.win1 := rfl
@[simp] theorem advanceClock_win2 : (advanceClock s).win2 = s.win2 := rfl
@[simp] theorem advanceClock_voteCtr : (advanceClock s).voteCtr = s.voteCtr := rfl
@[simp] theorem advanceClock_stable : (advanceClock s).stable = s.stable := rfl
@[simp] theorem advanceClock_lastEval : (advanceClock s).lastEval = s.lastEval := rfl
@[simp] theorem advanceClock_lastAgree : (advanceClock s).lastAgree = s.lastAgree := rfl
@[simp] theorem advanceClock_slots : (advanceClock s).slots = s.slots := rfl
@[simp] theorem advanceClock_startAcc : (advanceClock s).startAcc = s.startAcc := rfl
@[simp] theorem advanceClock_exitReq : (advanceClock s).exitReq = s.exitReq := rfl
@[simp] theorem advanceClock_inputs : (advanceClock s).inputs = s.inputs := rfl
@[simp] theorem advanceClock_tick : (advanceClock s).tick = s.tick := rfl
@[simp] theorem advanceClock_out : (advanceClock s).out = s.out := rfl

@[simp] theorem advancePosition_cfg : (advancePosition s).cfg = s.cfg := by
  unfold advancePosition; split <;> [rfl; split <;> [rfl; split <;> rfl]]
@[simp] theorem advancePosition_life : (advancePosition s).life = s.life := by
  unfold advancePosition; split <;> [rfl; split <;> [rfl; split <;> rfl]]
@[simp] theorem advancePosition_lgBusy : (advancePosition s).lgBusy = s.lgBusy := by
  unfold advancePosition; split <;> [rfl; split <;> [rfl; split <;> rfl]]
@[simp] theorem advancePosition_lgQ : (advancePosition s).lgQ = s.lgQ := by
  unfold advancePosition; split <;> [rfl; split <;> [rfl; split <;> rfl]]
@[simp] theorem advancePosition_cgBusy : (advancePosition s).cgBusy = s.cgBusy := by
  unfold advancePosition; split <;> [rfl; split <;> [rfl; split <;> rfl]]
@[simp] theorem advancePosition_cgQ : (advancePosition s).cgQ = s.cgQ := by
  unfold advancePosition; split <;> [rfl; split <;> [rfl; split <;> rfl]]
@[simp] theorem advancePosition_cgN : (advancePosition s).cgN = s.cgN := by
  unfold advancePosition; split <;> [rfl; split <;> [rfl; split <;> rfl]]
@[simp] theorem advancePosition_smpA : (advancePosition s).smpA = s.smpA := by
  unfold advancePosition; split <;> [rfl; split <;> [rfl; split <;> rfl]]
@[simp] theorem advancePosition_smpFrame : (advancePosition s).smpFrame = s.smpFrame := by
  unfold advancePosition; split <;> [rfl; split <;> [rfl; split <;> rfl]]
@[simp] theorem advancePosition_win0 : (advancePosition s).win0 = s.win0 := by
  unfold advancePosition; split <;> [rfl; split <;> [rfl; split <;> rfl]]
@[simp] theorem advancePosition_win1 : (advancePosition s).win1 = s.win1 := by
  unfold advancePosition; split <;> [rfl; split <;> [rfl; split <;> rfl]]
@[simp] theorem advancePosition_win2 : (advancePosition s).win2 = s.win2 := by
  unfold advancePosition; split <;> [rfl; split <;> [rfl; split <;> rfl]]
@[simp] theorem advancePosition_voteCtr : (advancePosition s).voteCtr = s.voteCtr := by
  unfold advancePosition; split <;> [rfl; split <;> [rfl; split <;> rfl]]
@[simp] theorem advancePosition_stable : (advancePosition s).stable = s.stable := by
  unfold advancePosition; split <;> [rfl; split <;> [rfl; split <;> rfl]]
@[simp] theorem advancePosition_lastEval : (advancePosition s).lastEval = s.lastEval := by
  unfold advancePosition; split <;> [rfl; split <;> [rfl; split <;> rfl]]
@[simp] theorem advancePosition_lastAgree : (advancePosition s).lastAgree = s.lastAgree := by
  unfold advancePosition; split <;> [rfl; split <;> [rfl; split <;> rfl]]
@[simp] theorem advancePosition_slots : (advancePosition s).slots = s.slots := by
  unfold advancePosition; split <;> [rfl; split <;> [rfl; split <;> rfl]]
@[simp] theorem advancePosition_startAcc : (advancePosition s).startAcc = s.startAcc := by
  unfold advancePosition; split <;> [rfl; split <;> [rfl; split <;> rfl]]
@[simp] theorem advancePosition_exitReq : (advancePosition s).exitReq = s.exitReq := by
  unfold advancePosition; split <;> [rfl; split <;> [rfl; split <;> rfl]]
@[simp] theorem advancePosition_inputs : (advancePosition s).inputs = s.inputs := by
  unfold advancePosition; split <;> [rfl; split <;> [rfl; split <;> rfl]]
@[simp] theorem advancePosition_tick : (advancePosition s).tick = s.tick := by
  unfold advancePosition; split <;> [rfl; split <;> [rfl; split <;> rfl]]
@[simp] theorem advancePosition_out : (advancePosition s).out = s.out := by
  unfold advancePosition; split <;> [rfl; split <;> [rfl; split <;> rfl]]

@[simp] theorem endTick_cfg : (endTick s).cfg = s.cfg := rfl
@[simp] theorem endTick_life : (endTick s).life = s.life := rfl
@[simp] theorem endTick_loop : (endTick s).loop = s.loop := rfl
@[simp] theorem endTick_p : (endTick s).p = s.p := rfl
@[simp] theorem endTick_lgBusy : (endTick s).lgBusy = s.lgBusy := rfl
@[simp] theorem endTick_lgQ : (endTick s).lgQ = s.lgQ := rfl
@[simp] theorem endTick_cgBusy : (endTick s).cgBusy = s.cgBusy := rfl
@[simp] theorem endTick_cgQ : (endTick s).cgQ = s.cgQ := rfl
@[simp] theorem endTick_cgN : (endTick s).cgN = s.cgN := rfl
@[simp] theorem endTick_smpA : (endTick s).smpA = s.smpA := rfl
@[simp] theorem endTick_smpFrame : (endTick s).smpFrame = s.smpFrame := rfl
@[simp] theorem endTick_win0 : (endTick s).win0 = s.win0 := rfl
@[simp] theorem endTick_win1 : (endTick s).win1 = s.win1 := rfl
@[simp] theorem endTick_win2 : (endTick s).win2 = s.win2 := rfl
@[simp] theorem endTick_voteCtr : (endTick s).voteCtr = s.voteCtr := rfl
@[simp] theorem endTick_stable : (endTick s).stable = s.stable := rfl
@[simp] theorem endTick_lastEval : (endTick s).lastEval = s.lastEval := rfl
@[simp] theorem endTick_lastAgree : (endTick s).lastAgree = s.lastAgree := rfl
@[simp] theorem endTick_slots : (endTick s).slots = s.slots := rfl
@[simp] theorem endTick_out : (endTick s).out = s.out := rfl

@[simp] theorem takeSlot_cfg (i : Nat) (x : Slot) : (takeSlot i x s).cfg = s.cfg := by
  unfold takeSlot; split <;> rfl
@[simp] theorem takeSlot_life (i : Nat) (x : Slot) : (takeSlot i x s).life = s.life := by
  unfold takeSlot; split <;> rfl
@[simp] theorem takeSlot_loop (i : Nat) (x : Slot) : (takeSlot i x s).loop = s.loop := by
  unfold takeSlot; split <;> rfl
@[simp] theorem takeSlot_p (i : Nat) (x : Slot) : (takeSlot i x s).p = s.p := by
  unfold takeSlot; split <;> rfl
@[simp] theorem takeSlot_lgBusy (i : Nat) (x : Slot) : (takeSlot i x s).lgBusy = s.lgBusy := by
  unfold takeSlot; split <;> rfl
@[simp] theorem takeSlot_lgQ (i : Nat) (x : Slot) : (takeSlot i x s).lgQ = s.lgQ := by
  unfold takeSlot; split <;> rfl
@[simp] theorem takeSlot_cgBusy (i : Nat) (x : Slot) : (takeSlot i x s).cgBusy = s.cgBusy := by
  unfold takeSlot; split <;> rfl
@[simp] theorem takeSlot_cgQ (i : Nat) (x : Slot) : (takeSlot i x s).cgQ = s.cgQ := by
  unfold takeSlot; split <;> rfl
@[simp] theorem takeSlot_cgN (i : Nat) (x : Slot) : (takeSlot i x s).cgN = s.cgN := by
  unfold takeSlot; split <;> rfl
@[simp] theorem takeSlot_smpA (i : Nat) (x : Slot) : (takeSlot i x s).smpA = s.smpA := by
  unfold takeSlot; split <;> rfl
@[simp] theorem takeSlot_smpFrame (i : Nat) (x : Slot) : (takeSlot i x s).smpFrame = s.smpFrame := by
  unfold takeSlot; split <;> rfl
@[simp] theorem takeSlot_win0 (i : Nat) (x : Slot) : (takeSlot i x s).win0 = s.win0 := by
  unfold takeSlot; split <;> rfl
@[simp] theorem takeSlot_win1 (i : Nat) (x : Slot) : (takeSlot i x s).win1 = s.win1 := by
  unfold takeSlot; split <;> rfl
@[simp] theorem takeSlot_win2 (i : Nat) (x : Slot) : (takeSlot i x s).win2 = s.win2 := by
  unfold takeSlot; split <;> rfl
@[simp] theorem takeSlot_voteCtr (i : Nat) (x : Slot) : (takeSlot i x s).voteCtr = s.voteCtr := by
  unfold takeSlot; split <;> rfl
@[simp] theorem takeSlot_stable (i : Nat) (x : Slot) : (takeSlot i x s).stable = s.stable := by
  unfold takeSlot; split <;> rfl
@[simp] theorem takeSlot_lastEval (i : Nat) (x : Slot) : (takeSlot i x s).lastEval = s.lastEval := by
  unfold takeSlot; split <;> rfl
@[simp] theorem takeSlot_lastAgree (i : Nat) (x : Slot) : (takeSlot i x s).lastAgree = s.lastAgree := by
  unfold takeSlot; split <;> rfl
@[simp] theorem takeSlot_startAcc (i : Nat) (x : Slot) : (takeSlot i x s).startAcc = s.startAcc := by
  unfold takeSlot; split <;> rfl
@[simp] theorem takeSlot_exitReq (i : Nat) (x : Slot) : (takeSlot i x s).exitReq = s.exitReq := by
  unfold takeSlot; split <;> rfl
@[simp] theorem takeSlot_inputs (i : Nat) (x : Slot) : (takeSlot i x s).inputs = s.inputs := by
  unfold takeSlot; split <;> rfl
@[simp] theorem takeSlot_tick (i : Nat) (x : Slot) : (takeSlot i x s).tick = s.tick := by
  unfold takeSlot; split <;> rfl

@[simp] theorem writeSlots_cfg (o : Word17) : (writeSlots o s).cfg = s.cfg := rfl
@[simp] theorem writeSlots_life (o : Word17) : (writeSlots o s).life = s.life := rfl
@[simp] theorem writeSlots_loop (o : Word17) : (writeSlots o s).loop = s.loop := rfl
@[simp] theorem writeSlots_p (o : Word17) : (writeSlots o s).p = s.p := rfl
@[simp] theorem writeSlots_lgBusy (o : Word17) : (writeSlots o s).lgBusy = s.lgBusy := rfl
@[simp] theorem writeSlots_lgQ (o : Word17) : (writeSlots o s).lgQ = s.lgQ := rfl
@[simp] theorem writeSlots_cgBusy (o : Word17) : (writeSlots o s).cgBusy = s.cgBusy := rfl
@[simp] theorem writeSlots_cgQ (o : Word17) : (writeSlots o s).cgQ = s.cgQ := rfl
@[simp] theorem writeSlots_cgN (o : Word17) : (writeSlots o s).cgN = s.cgN := rfl
@[simp] theorem writeSlots_smpA (o : Word17) : (writeSlots o s).smpA = s.smpA := rfl
@[simp] theorem writeSlots_smpFrame (o : Word17) : (writeSlots o s).smpFrame = s.smpFrame := rfl
@[simp] theorem writeSlots_win0 (o : Word17) : (writeSlots o s).win0 = s.win0 := rfl
@[simp] theorem writeSlots_win1 (o : Word17) : (writeSlots o s).win1 = s.win1 := rfl
@[simp] theorem writeSlots_win2 (o : Word17) : (writeSlots o s).win2 = s.win2 := rfl
@[simp] theorem writeSlots_voteCtr (o : Word17) : (writeSlots o s).voteCtr = s.voteCtr := rfl
@[simp] theorem writeSlots_stable (o : Word17) : (writeSlots o s).stable = s.stable := rfl
@[simp] theorem writeSlots_lastEval (o : Word17) : (writeSlots o s).lastEval = s.lastEval := rfl
@[simp] theorem writeSlots_lastAgree (o : Word17) : (writeSlots o s).lastAgree = s.lastAgree := rfl
@[simp] theorem writeSlots_startAcc (o : Word17) : (writeSlots o s).startAcc = s.startAcc := rfl
@[simp] theorem writeSlots_exitReq (o : Word17) : (writeSlots o s).exitReq = s.exitReq := rfl
@[simp] theorem writeSlots_inputs (o : Word17) : (writeSlots o s).inputs = s.inputs := rfl
@[simp] theorem writeSlots_tick (o : Word17) : (writeSlots o s).tick = s.tick := rfl
@[simp] theorem writeSlots_out (o : Word17) : (writeSlots o s).out = s.out := rfl

@[simp] theorem setWin_cfg (c : Fin 3) (f : Word16) : (setWin c f s).cfg = s.cfg := by
  unfold setWin; split <;> [rfl; split <;> rfl]
@[simp] theorem setWin_life (c : Fin 3) (f : Word16) : (setWin c f s).life = s.life := by
  unfold setWin; split <;> [rfl; split <;> rfl]
@[simp] theorem setWin_loop (c : Fin 3) (f : Word16) : (setWin c f s).loop = s.loop := by
  unfold setWin; split <;> [rfl; split <;> rfl]
@[simp] theorem setWin_p (c : Fin 3) (f : Word16) : (setWin c f s).p = s.p := by
  unfold setWin; split <;> [rfl; split <;> rfl]
@[simp] theorem setWin_lgBusy (c : Fin 3) (f : Word16) : (setWin c f s).lgBusy = s.lgBusy := by
  unfold setWin; split <;> [rfl; split <;> rfl]
@[simp] theorem setWin_lgQ (c : Fin 3) (f : Word16) : (setWin c f s).lgQ = s.lgQ := by
  unfold setWin; split <;> [rfl; split <;> rfl]
@[simp] theorem setWin_cgBusy (c : Fin 3) (f : Word16) : (setWin c f s).cgBusy = s.cgBusy := by
  unfold setWin; split <;> [rfl; split <;> rfl]
@[simp] theorem setWin_cgQ (c : Fin 3) (f : Word16) : (setWin c f s).cgQ = s.cgQ := by
  unfold setWin; split <;> [rfl; split <;> rfl]
@[simp] theorem setWin_cgN (c : Fin 3) (f : Word16) : (setWin c f s).cgN = s.cgN := by
  unfold setWin; split <;> [rfl; split <;> rfl]
@[simp] theorem setWin_smpA (c : Fin 3) (f : Word16) : (setWin c f s).smpA = s.smpA := by
  unfold setWin; split <;> [rfl; split <;> rfl]
@[simp] theorem setWin_smpFrame (c : Fin 3) (f : Word16) : (setWin c f s).smpFrame = s.smpFrame := by
  unfold setWin; split <;> [rfl; split <;> rfl]
@[simp] theorem setWin_voteCtr (c : Fin 3) (f : Word16) : (setWin c f s).voteCtr = s.voteCtr := by
  unfold setWin; split <;> [rfl; split <;> rfl]
@[simp] theorem setWin_stable (c : Fin 3) (f : Word16) : (setWin c f s).stable = s.stable := by
  unfold setWin; split <;> [rfl; split <;> rfl]
@[simp] theorem setWin_lastEval (c : Fin 3) (f : Word16) : (setWin c f s).lastEval = s.lastEval := by
  unfold setWin; split <;> [rfl; split <;> rfl]
@[simp] theorem setWin_lastAgree (c : Fin 3) (f : Word16) : (setWin c f s).lastAgree = s.lastAgree := by
  unfold setWin; split <;> [rfl; split <;> rfl]
@[simp] theorem setWin_slots (c : Fin 3) (f : Word16) : (setWin c f s).slots = s.slots := by
  unfold setWin; split <;> [rfl; split <;> rfl]
@[simp] theorem setWin_startAcc (c : Fin 3) (f : Word16) : (setWin c f s).startAcc = s.startAcc := by
  unfold setWin; split <;> [rfl; split <;> rfl]
@[simp] theorem setWin_exitReq (c : Fin 3) (f : Word16) : (setWin c f s).exitReq = s.exitReq := by
  unfold setWin; split <;> [rfl; split <;> rfl]
@[simp] theorem setWin_inputs (c : Fin 3) (f : Word16) : (setWin c f s).inputs = s.inputs := by
  unfold setWin; split <;> [rfl; split <;> rfl]
@[simp] theorem setWin_tick (c : Fin 3) (f : Word16) : (setWin c f s).tick = s.tick := by
  unfold setWin; split <;> [rfl; split <;> rfl]
@[simp] theorem setWin_out (c : Fin 3) (f : Word16) : (setWin c f s).out = s.out := by
  unfold setWin; split <;> [rfl; split <;> rfl]

@[simp] theorem beginTick_startAcc : (beginTick s).startAcc = false := rfl
@[simp] theorem beginTick_exitReq : (beginTick s).exitReq = false := rfl
@[simp] theorem endTick_startAcc : (endTick s).startAcc = false := rfl
@[simp] theorem endTick_exitReq : (endTick s).exitReq = false := rfl
@[simp] theorem endTick_inputs : (endTick s).inputs = s.inputs.tail := rfl
@[simp] theorem endTick_tick : (endTick s).tick = s.tick + 1 := rfl
@[simp] theorem driveState_stateOut : (driveState s).out.stateOut = s.stable := rfl
@[simp] theorem driveLines_latchOut : (driveLines s).out.latchOut = s.lgBusy := rfl
@[simp] theorem driveLines_clockOut :
    (driveLines s).out.clockOut = clockLevel s.cfg s.cgBusy s.cgQ := rfl
@[simp] theorem driveLines_stateOut : (driveLines s).out.stateOut = s.out.stateOut := rfl
@[simp] theorem writeSlots_slots (o : Word17) :
    (writeSlots o s).slots = s.slots.map fun _ => ⟨true, o⟩ := rfl
@[simp] theorem writeSlots_length (o : Word17) : (writeSlots o s).slots.length = s.slots.length := by
  simp
@[simp] theorem takeSlot_length (i : Nat) (x : Slot) : (takeSlot i x s).slots.length = s.slots.length := by
  unfold takeSlot; split <;> simp

/-- The inputs of a tick do not change while it runs. -/
theorem curIn_congr {s t : State} (h : t.inputs = s.inputs) : curIn t = curIn s := by
  unfold curIn; rw [h]

/-- The line does not change while a tick runs. -/
theorem readLine_congr {s t : State} (h : t.inputs = s.inputs) (k : t.tick = s.tick) :
    readLine t = readLine s := by
  unfold readLine; rw [curIn_congr h, k]

end Sys2Proof.Machine
end

