-- ==== Sys2Proof/Laws/Operands.lean ====
section
/-! SUPPORT. The bit fields, bit by bit, and the codes of the small fields. -/

namespace Sys2Proof.Machine

/-- R93: bit `k` is written, every other bit is unchanged. -/
theorem setFrameBit_getLsbD (f : Word16) (k : BitIndex) (b : Bool) (j : Nat) (hj : j < 16) :
    (setFrameBit f k b).getLsbD j = if j = k.toNat then b else f.getLsbD j := by
  have hk : k.toNat < 16 := k.isLt
  unfold setFrameBit
  simp only [BitVec.getLsbD_or, BitVec.getLsbD_and, BitVec.getLsbD_not, BitVec.getLsbD_shiftLeft,
    BitVec.getLsbD_setWidth, BitVec.getLsbD_one, BitVec.getLsbD_ofBool, hj]
  rcases Nat.lt_trichotomy j k.toNat with h | h | h
  · have : j ≠ k.toNat := by omega
    simp [h, this]
  · subst h; simp [hk]
  · have h1 : j ≠ k.toNat := by omega
    have h2 : j - k.toNat ≠ 0 := by omega
    have h3 : ¬ j < k.toNat := by omega
    simp [h1, h2, h3]

/-- R49: the dummy bit. -/
theorem reframe_getLsbD_zero (v : Word16) : (reframe v).getLsbD 0 = false := by
  simp [reframe]

/-- R49: bit `j+1` of an OutboundFrame is bit `j` of the stable state. -/
theorem reframe_getLsbD_succ (v : Word16) (j : Nat) (hj : j < 16) :
    (reframe v).getLsbD (j + 1) = v.getLsbD j := by
  have mask : (0x1FFFE#17).getLsbD (j + 1) = true := by interval_cases j <;> decide
  simp only [reframe, BitVec.getLsbD_and, mask, Bool.and_true, BitVec.getLsbD_shiftLeft, BitVec.getLsbD_setWidth]
  simp [hj, show j + 1 < 17 by omega, show j < 17 by omega]

@[simp] theorem lifeOfCode_lifeCode (l : Life) : lifeOfCode (lifeCode l) = some l := by cases l <;> rfl
@[simp] theorem loopOfCode_loopCode (l : LoopState) : loopOfCode (loopCode l) = some l := by cases l <;> rfl

theorem pulseCount_pos (n : PulseCount) : 0 < pulseCount n := by cases n <;> decide

end Sys2Proof.Machine
end

