-- ==== Sys2Proof/Laws/Ops.lean ====
section
/-! SUPPORT. What each shared operation does, said once. -/

namespace Sys2Proof.Machine

@[simp] theorem andThen_next (s : State) (f : State → Host.Outcome State Fault Refusal) :
    andThen (.next s) f = f s := rfl
@[simp] theorem andThen_fault (r : Fault) (f : State → Host.Outcome State Fault Refusal) :
    andThen (.fault r) f = .fault r := rfl
@[simp] theorem andThen_refused (r : Refusal) (f : State → Host.Outcome State Fault Refusal) :
    andThen (.refused r) f = .refused r := rfl

/-- A chain answers a next state exactly where both of its parts do. -/
theorem andThen_eq_next {o : Host.Outcome State Fault Refusal} {f : State → Host.Outcome State Fault Refusal}
    {t : State} : andThen o f = .next t ↔ ∃ s, o = .next s ∧ f s = .next t := by
  cases o <;> simp

/-- Everything `construct` can answer (R137). -/
theorem construct_cases (c : Params) (ok : Bool) :
    (¬ c.Legal ∧ construct c ok = .refused .illegalParameters) ∨
    (c.Legal ∧ ok = false ∧ construct c ok = .fault .initFailure) ∨
    (c.Legal ∧ ok = true ∧ construct c ok = .next (State.initial c)) := by
  unfold construct
  by_cases h : c.Legal
  · right
    rw [if_pos h]
    cases ok
    · exact .inl ⟨h, rfl, rfl⟩
    · exact .inr ⟨h, rfl, rfl⟩
  · exact .inl ⟨h, if_neg h⟩

/-- R82: an idle generator starts, a busy one is left as it was. -/
theorem startLatch_eq (s : State) :
    startLatch s =
      { s with lgBusy := true, lgQ := if s.lgBusy = false then 0 else s.lgQ } := by
  unfold startLatch
  by_cases h : s.lgBusy = false
  · simp [h]
  · cases s; simp_all

/-- R83, R84: an idle generator starts a train of `n`, a busy one is left as it was. -/
theorem startTrain_eq (n : PulseCount) (s : State) :
    startTrain n s =
      { s with
        cgBusy := true
        cgQ := if s.cgBusy = false then 0 else s.cgQ
        cgN := if s.cgBusy = false then n else s.cgN } := by
  unfold startTrain
  by_cases h : s.cgBusy = false
  · simp [h]
  · cases s; simp_all

/-- R117, element by element. -/
theorem advancePosition_eq (s : State) :
    advancePosition s =
      { s with
        loop :=
          if s.startAcc = true then .active
          else if s.loop = .active ∧ s.exitReq = true then .exited else s.loop
        p :=
          if s.startAcc = true then 0
          else if s.loop = .active ∧ s.exitReq = true then 0
          else if s.loop = .active then (s.p + 1) % s.cfg.pollInterval else 0 } := by
  unfold advancePosition
  split_ifs <;> simp_all

/-- R85 keeps `lg_q` below `LATCH_WIDTH`, and at 0 while idle. -/
theorem latchTicksNext_range {w q : Nat} {b : Bool} (hq : q < w) :
    latchTicksNext w b q < w ∧ (latchBusyNext w b q = false → latchTicksNext w b q = 0) := by
  unfold latchTicksNext latchBusyNext
  cases b
  · simp; omega
  · by_cases h : q + 1 = w
    · simp [h]; omega
    · simp [h]; omega

/-- R86 keeps `cg_q` below the length of the train, and at 0 while idle. -/
theorem clockTicksNext_range {w q : Nat} {b : Bool} (hq : q < w) :
    clockTicksNext w b q < w ∧ (clockBusyNext w b q = false → clockTicksNext w b q = 0) :=
  latchTicksNext_range hq

/-- R110 on the slots: place `i` loses its valid bit, every other slot is unchanged. -/
theorem takeSlot_slots (i : Nat) (x : Slot) (s : State) (h : s.slots[i]? = some x) (j : Nat) :
    (takeSlot i x s).slots[j]? = if j = i then some ⟨false, x.frame⟩ else s.slots[j]? := by
  have hi : i < s.slots.length := by
    by_contra hn
    rw [List.getElem?_eq_none (by omega)] at h
    exact absurd h (by simp)
  unfold takeSlot
  by_cases hv : x.valid = true
  · simp only [hv, if_true, List.getElem?_set]
    by_cases hj : i = j
    · subst hj; simp [hi]
    · simp [hj, Ne.symm hj]
  · simp only [hv, if_false, Bool.false_eq_true]
    by_cases hj : j = i
    · subst hj; rw [h]; cases x; simp_all
    · simp [hj]

/-- R110 on what the peripherals received: the frame at place `i`, where the slot was valid. -/
theorem takeSlot_handed (i : Nat) (x : Slot) (s : State) (j : Nat) :
    (takeSlot i x s).out.handed[j]? =
      if j = i ∧ x.valid = true ∧ j < s.out.handed.length then some (some x.frame) else s.out.handed[j]? := by
  unfold takeSlot
  by_cases hv : x.valid = true
  · simp only [hv, if_true, List.getElem?_set, true_and]
    by_cases hj : i = j
    · subst hj
      by_cases hl : i < s.out.handed.length
      · simp [hl]
      · simp [hl]
    · simp [hj, Ne.symm hj]
  · simp [hv]

/-- R110: a TAKE writes no output but `handed`. -/
theorem takeSlot_out (i : Nat) (x : Slot) (s : State) :
    (takeSlot i x s).out = { s.out with handed := (takeSlot i x s).out.handed } := by
  unfold takeSlot; split <;> rfl

/-- R99: the frame goes to `win[c]`, the other two places are unchanged. -/
theorem setWin_eq (c : Fin 3) (f : Word16) (s : State) :
    setWin c f s =
      { s with
        win0 := if c = 0 then f else s.win0
        win1 := if c = 1 then f else s.win1
        win2 := if c = 2 then f else s.win2 } := by
  unfold setWin
  fin_cases c <;> simp

end Sys2Proof.Machine
end

