-- ==== Sys2Proof/Laws/Decode.lean ====
section
/-! SUPPORT. The UOP decoder against the encoder, word by word, and decoding a list of words. -/

namespace Sys2Proof.Machine

/-- The word of a micro-operation decodes to it. -/
theorem encode_uop {i : Instr} (h : i.format = .uop) :
    ∃ w, encode i = .uop w ∧ decodeUop w = some i := by
  have a : ∀ k : BitIndex, decodeUop (0x5#4 ++ k) = some (.uSmpa k) := by decide
  have b : ∀ k : BitIndex, decodeUop (0x6#4 ++ k) = some (.uSmpb k) := by decide
  cases i with
  | uSmpa k => exact ⟨_, rfl, a k⟩
  | uSmpb k => exact ⟨_, rfl, b k⟩
  | nop => exact absurd h (by decide)
  | start => exact absurd h (by decide)
  | stop => exact absurd h (by decide)
  | hrsv => exact absurd h (by decide)
  | readState => exact absurd h (by decide)
  | take n => exact absurd h (by simp [Instr.format])
  | uWait => exact ⟨_, rfl, by decide⟩
  | uTop => exact ⟨_, rfl, by decide⟩
  | uLatch => exact ⟨_, rfl, by decide⟩
  | uClk16 => exact ⟨_, rfl, by decide⟩
  | uClk17 => exact ⟨_, rfl, by decide⟩
  | uAccept => exact ⟨_, rfl, by decide⟩
  | uReframe => exact ⟨_, rfl, by decide⟩

/-- A UOP word decodes to nothing but a micro-operation. -/
theorem decodeUop_format {w : UopWord} {i : Instr} (h : decodeUop w = some i) : i.format = .uop := by
  have all : ∀ w : UopWord, ((decodeUop w).all fun i => decide (i.format = .uop)) = true := by decide +revert
  have := all w
  rw [h] at this
  simpa using this

/-- An HCMD word decodes to a phase H operation. -/
theorem decodeHcmd_phase (w : HcmdWord) : (decodeHcmd w).phase = .h ∧ (decodeHcmd w).blockUnit = none ∧
    (decodeHcmd w).format = .hcmd := by
  revert w; decide

/-- Decoding goes word by word. -/
theorem decodeWords_append (n : Nat) (a b : List PortWord) {is js : List Instr}
    (ha : decodeWords n a = .ok is) (hb : decodeWords n b = .ok js) :
    decodeWords n (a ++ b) = .ok (is ++ js) := by
  induction a generalizing is with
  | nil => simp only [decodeWords] at ha; cases ha; simpa using hb
  | cons w ws ih =>
    simp only [decodeWords, List.cons_append] at ha ⊢
    cases hw : decode n w with
    | op i =>
      simp only [hw] at ha ⊢
      cases hr : decodeWords n ws with
      | ok ks => simp only [hr] at ha; cases ha; simp [ih hr]
      | error r => simp only [hr] at ha; cases ha
    | noTake i => simp only [hw] at ha ⊢; exact ih ha
    | illegalUop u => simp only [hw] at ha; cases ha
    | noSuchPort i => simp only [hw] at ha; cases ha

/-- UOP words that all decode. -/
theorem decodeWords_uops (n : Nat) (ws : List UopWord) (us : List Instr)
    (h : ws.map decodeUop = us.map some) : decodeWords n (ws.map PortWord.uop) = .ok us := by
  induction ws generalizing us with
  | nil => cases us <;> simp_all [decodeWords]
  | cons w ws ih =>
    cases us with
    | nil => simp at h
    | cons u us =>
      simp only [List.map_cons, List.cons.injEq] at h
      simp [decodeWords, decode, h.1, ih us h.2]

/-- The words of micro-operations. -/
theorem decodeWords_encode (n : Nat) (us : List Instr) (h : ∀ i ∈ us, i.format = .uop) :
    decodeWords n (us.map encode) = .ok us := by
  induction us with
  | nil => rfl
  | cons u us ih =>
    obtain ⟨w, hw, hd⟩ := encode_uop (h u (by simp))
    simp [decodeWords, hw, decode, hd, ih fun i hi => h i (by simp [hi])]

/-- The strobes of the wires in `l`: one TAKE for each that is 1. -/
theorem decodeWords_takes (n : Nat) (i : TickIn) (l : List Nat) (h : ∀ k ∈ l, k < n) :
    decodeWords n (l.map fun k => .take k (BitVec.ofBool (takeStrobe i k))) =
      .ok ((l.filter (takeStrobe i)).map Instr.take) := by
  induction l with
  | nil => rfl
  | cons k l ih =>
    have hk := h k (by simp)
    have := ih fun j hj => h j (by simp [hj])
    cases hs : takeStrobe i k <;> simp [decodeWords, decode, hk, hs, this]

/-- A tick with an illegal UOP word is refused, by the first such word (R69). -/
theorem decodeWords_illegal (n : Nat) (ws : List UopWord) (h : ∃ w ∈ ws, decodeUop w = none) :
    ∃ w ∈ ws, decodeUop w = none ∧ decodeWords n (ws.map PortWord.uop) = .error (.illegalUop w) := by
  induction ws with
  | nil => simp at h
  | cons w ws ih =>
    cases hw : decodeUop w with
    | none => exact ⟨w, by simp, hw, by simp [decodeWords, decode, hw]⟩
    | some i =>
      obtain ⟨v, hv, hn, he⟩ := ih (by simpa [hw] using h)
      exact ⟨v, by simp [hv], hn, by simp [decodeWords, decode, hw, he]⟩

end Sys2Proof.Machine
end

