-- ==== Sys2Proof/Laws/Schedule.lean ====
section
/-! SUPPORT. What the schedule of R116 holds at a position of a legal parameter set. -/

namespace Sys2Proof.Machine

/-- The positions of R12 in terms of each other, for omega. -/
theorem positions (c : Params) :
    c.acceptPos = c.t0 + 16 * c.clkPeriod ∧ c.reframePos = c.acceptPos + 1 ∧ c.work = c.reframePos + 1 ∧
      c.t0 = c.latchWidth + c.latchClockGap := ⟨rfl, rfl, rfl, rfl⟩

theorem readA_eq (c : Params) (k : Nat) : c.readA k = c.t0 + k * c.clkPeriod + c.sampleOffset := rfl
theorem readB_eq (c : Params) (k : Nat) :
    c.readB k = c.t0 + k * c.clkPeriod + c.sampleOffset + c.rereadGap := rfl

/-- Every read lies inside the clock train, the second after the first, and before the next bit's (R13, R116). -/
theorem read_order {c : Params} (hc : c.Legal) {k : Nat} (hk : k < 16) :
    c.t0 ≤ c.readA k ∧ c.readA k < c.readB k ∧ c.readB k < c.t0 + (k + 1) * c.clkPeriod ∧
      c.readB k < c.acceptPos := by
  obtain ⟨_, _, _, _, hg, hs, _, _⟩ := hc
  have hm : (k + 1) * c.clkPeriod ≤ 16 * c.clkPeriod := Nat.mul_le_mul_right _ (by omega)
  have he : (k + 1) * c.clkPeriod = k * c.clkPeriod + c.clkPeriod := by ring
  have := positions c
  rw [readA_eq, readB_eq]
  omega

/-- Two reads at one position are the same read: the positions `A(k)` and `B(k)` are pairwise apart (R13). -/
theorem period_index {P a b x y : Nat} (hx : x < P) (hy : y < P) (h : a * P + x = b * P + y) : a = b ∧ x = y := by
  have hP : 0 < P := by omega
  have ha : (a * P + x) / P = a := by
    rw [Nat.add_comm, Nat.add_mul_div_right _ _ hP, Nat.div_eq_of_lt hx, Nat.zero_add]
  have hb : (b * P + y) / P = b := by
    rw [Nat.add_comm, Nat.add_mul_div_right _ _ hP, Nat.div_eq_of_lt hy, Nat.zero_add]
  have hab : a = b := by rw [← ha, h, hb]
  subst hab
  exact ⟨rfl, by omega⟩

/-- R116, at each position: the reads of the sampler, by their bit. -/
theorem mem_schedSmpa {c : Params} {p : Nat} {i : Instr} :
    i ∈ schedSmpa c p ↔ ∃ k < 16, p = c.readA k ∧ i = .uSmpa (BitVec.ofNat 4 k) := by
  simp only [schedSmpa, frameBits, List.mem_map, List.mem_filter, List.mem_range, decide_eq_true_eq, and_assoc,
    eq_comm (b := i)]

theorem mem_schedSmpb {c : Params} {p : Nat} {i : Instr} :
    i ∈ schedSmpb c p ↔ ∃ k < 16, p = c.readB k ∧ i = .uSmpb (BitVec.ofNat 4 k) := by
  simp only [schedSmpb, frameBits, List.mem_map, List.mem_filter, List.mem_range, decide_eq_true_eq, and_assoc,
    eq_comm (b := i)]

/-- R116: every entry of the schedule, by its position. -/
theorem mem_schedWork {c : Params} {p : Nat} {i : Instr} :
    i ∈ schedWork c p ↔
      (p = 0 ∧ (i = .uTop ∨ i = .uLatch)) ∨ (p = c.t0 ∧ i = .uClk16) ∨
      (∃ k < 16, p = c.readA k ∧ i = .uSmpa (BitVec.ofNat 4 k)) ∨
      (∃ k < 16, p = c.readB k ∧ i = .uSmpb (BitVec.ofNat 4 k)) ∨
      (p = c.acceptPos ∧ i = .uAccept) ∨ (p = c.reframePos ∧ i = .uReframe) := by
  have hite : ∀ (P : Prop) [Decidable P] (l : List Instr), i ∈ (if P then l else []) ↔ P ∧ i ∈ l := by
    intro P _ l; split <;> simp [*]
  simp only [schedWork, List.mem_append, hite, mem_schedSmpa, mem_schedSmpb, List.mem_cons, List.not_mem_nil,
    or_false, or_assoc]

theorem mem_sched {c : Params} {p : Nat} {i : Instr} :
    i ∈ sched c p ↔ i ∈ schedWork c p ∨ (i = .uWait ∧ schedWork c p = []) := by
  unfold sched
  split <;> simp [*]

/-- Every operation of the schedule is a micro-operation. -/
theorem sched_format {c : Params} {p : Nat} : ∀ i ∈ sched c p, i.format = .uop := by
  intro i hi
  rcases mem_sched.1 hi with h | ⟨rfl, -⟩
  · rcases mem_schedWork.1 h with ⟨-, rfl | rfl⟩ | ⟨-, rfl⟩ | ⟨k, -, -, rfl⟩ | ⟨k, -, -, rfl⟩ | ⟨-, rfl⟩ | ⟨-, rfl⟩ <;> rfl
  · rfl

/-- A position that is the value of an injective `f` picks exactly one index. -/
theorem filter_unique {f : Nat → Nat} (inj : ∀ i j, f i = f j → i = j) {k : Nat} (hk : k < 16) :
    ((List.range frameBits).filter fun j => decide (f k = f j)) = [k] := by
  have e : ∀ j, decide (f k = f j) = decide (k = j) := fun j => decide_eq_decide.2 ⟨inj k j, congrArg f⟩
  simp only [e]
  interval_cases k <;> decide

theorem readA_inj {c : Params} (hc : c.Legal) (i j : Nat) (h : c.readA i = c.readA j) : i = j := by
  have hd : c.sampleOffset < c.clkPeriod := by have := hc.2.2.2.2.2.1; omega
  rw [readA_eq, readA_eq] at h
  exact (period_index hd hd (by omega)).1

theorem readB_inj {c : Params} (hc : c.Legal) (i j : Nat) (h : c.readB i = c.readB j) : i = j := by
  have hd : c.sampleOffset + c.rereadGap < c.clkPeriod := hc.2.2.2.2.2.1
  rw [readB_eq, readB_eq] at h
  exact (period_index hd hd (by omega)).1

/-- The reads of a position, as lists. -/
theorem schedSmpa_eq {c : Params} (hc : c.Legal) (p : Nat) :
    (∃ k < 16, p = c.readA k ∧ schedSmpa c p = [.uSmpa (BitVec.ofNat 4 k)]) ∨
      ((∀ k < 16, p ≠ c.readA k) ∧ schedSmpa c p = []) := by
  by_cases h : ∃ k < 16, p = c.readA k
  · obtain ⟨k, hk, rfl⟩ := h
    exact .inl ⟨k, hk, rfl, by simp [schedSmpa, filter_unique (readA_inj hc) hk]⟩
  · push Not at h
    exact .inr ⟨h, List.eq_nil_iff_forall_not_mem.2 fun i hi => by
      obtain ⟨k, hk, hp, -⟩ := mem_schedSmpa.1 hi; exact h k hk hp⟩

theorem schedSmpb_eq {c : Params} (hc : c.Legal) (p : Nat) :
    (∃ k < 16, p = c.readB k ∧ schedSmpb c p = [.uSmpb (BitVec.ofNat 4 k)]) ∨
      ((∀ k < 16, p ≠ c.readB k) ∧ schedSmpb c p = []) := by
  by_cases h : ∃ k < 16, p = c.readB k
  · obtain ⟨k, hk, rfl⟩ := h
    exact .inl ⟨k, hk, rfl, by simp [schedSmpb, filter_unique (readB_inj hc) hk]⟩
  · push Not at h
    exact .inr ⟨h, List.eq_nil_iff_forall_not_mem.2 fun i hi => by
      obtain ⟨k, hk, hp, -⟩ := mem_schedSmpb.1 hi; exact h k hk hp⟩

/-- R116, said once: what a position of a legal parameter set issues. -/
theorem sched_cases {c : Params} (hc : c.Legal) (p : Nat) :
    (p = 0 ∧ sched c p = [.uTop, .uLatch]) ∨
    (p = c.t0 ∧ p = c.readA 0 ∧ sched c p = [.uClk16, .uSmpa 0#4]) ∨
    (p = c.t0 ∧ (∀ k < 16, p ≠ c.readA k) ∧ sched c p = [.uClk16]) ∨
    (∃ k < 16, p = c.readA k ∧ p ≠ c.t0 ∧ sched c p = [.uSmpa (BitVec.ofNat 4 k)]) ∨
    (∃ k < 16, p = c.readB k ∧ sched c p = [.uSmpb (BitVec.ofNat 4 k)]) ∨
    (p = c.acceptPos ∧ sched c p = [.uAccept]) ∨
    (p = c.reframePos ∧ sched c p = [.uReframe]) ∨
    (p ≠ 0 ∧ p ≠ c.t0 ∧ (∀ k < 16, p ≠ c.readA k ∧ p ≠ c.readB k) ∧ p ≠ c.acceptPos ∧ p ≠ c.reframePos ∧
      sched c p = [.uWait]) := by
  have pos := positions c
  have hL : 1 ≤ c.latchWidth := hc.1
  rcases schedSmpa_eq hc p with ⟨a, ha, pa, sa⟩ | ⟨na, sa⟩ <;>
    rcases schedSmpb_eq hc p with ⟨b, hb, pb, sb⟩ | ⟨nb, sb⟩
  · exfalso
    obtain ⟨-, -, -, -, hg, hs, -, -⟩ := hc
    rw [readA_eq] at pa
    rw [readB_eq] at pb
    have := (period_index (a := a) (b := b) (x := c.sampleOffset) (y := c.sampleOffset + c.rereadGap) (by omega) hs
      (by omega)).2
    omega
  · have ord := read_order hc ha
    have h0 : p ≠ 0 := by omega
    have h1 : p ≠ c.acceptPos := by omega
    have h2 : p ≠ c.reframePos := by omega
    by_cases ht : p = c.t0
    · have hz : a = 0 := by
        by_contra hz
        have : 1 * c.clkPeriod ≤ a * c.clkPeriod := Nat.mul_le_mul_right _ (by omega)
        have hl : 1 ≤ c.clkLow := hc.2.1
        have hp : c.clkLow < c.clkPeriod := hc.2.2.1
        rw [readA_eq] at pa
        omega
      subst hz
      refine .inr (.inl ⟨ht, pa, ?_⟩)
      simp [sched, schedWork, sa, sb, h0, h1, h2, ← ht]
    · refine .inr (.inr (.inr (.inl ⟨a, ha, pa, ht, ?_⟩)))
      simp [sched, schedWork, sa, sb, h0, h1, h2, ht]
  · have ord := read_order hc hb
    have h0 : p ≠ 0 := by omega
    have h1 : p ≠ c.acceptPos := by omega
    have h2 : p ≠ c.reframePos := by omega
    have ht : p ≠ c.t0 := by omega
    refine .inr (.inr (.inr (.inr (.inl ⟨b, hb, pb, ?_⟩))))
    simp [sched, schedWork, sa, sb, h0, h1, h2, ht]
  · by_cases h0 : p = 0
    · have h1 : p ≠ c.acceptPos := by omega
      have h2 : p ≠ c.reframePos := by omega
      have ht : p ≠ c.t0 := by omega
      subst h0
      exact .inl ⟨rfl, by simp [sched, schedWork, sa, sb, h1, h2, ht]⟩
    by_cases ht : p = c.t0
    · have h1 : p ≠ c.acceptPos := by
        have : 1 ≤ c.clkLow := hc.2.1
        have : c.clkLow < c.clkPeriod := hc.2.2.1
        omega
      have h2 : p ≠ c.reframePos := by omega
      refine .inr (.inr (.inl ⟨ht, na, ?_⟩))
      rw [ht] at h0 h1 h2 sa sb ⊢
      simp [sched, schedWork, sa, sb, h0, h1, h2]
    by_cases h1 : p = c.acceptPos
    · have h2 : p ≠ c.reframePos := by omega
      refine .inr (.inr (.inr (.inr (.inr (.inl ⟨h1, ?_⟩)))))
      rw [h1] at h0 ht h2 sa sb ⊢
      simp [sched, schedWork, sa, sb, h0, ht, h2]
    by_cases h2 : p = c.reframePos
    · refine .inr (.inr (.inr (.inr (.inr (.inr (.inl ⟨h2, ?_⟩))))))
      rw [h2] at h0 ht h1 sa sb ⊢
      simp [sched, schedWork, sa, sb, h0, ht, h1]
    · refine .inr (.inr (.inr (.inr (.inr (.inr (.inr ⟨h0, ht, fun k hk => ⟨na k hk, nb k hk⟩, h1, h2, ?_⟩))))))
      simp [sched, schedWork, sa, sb, h0, ht, h1, h2]

/-- R70: no two micro-operations of a position are for one unit. -/
theorem sched_noClash {c : Params} (hc : c.Legal) (p : Nat) : unitClash (sched c p) = false := by
  rcases sched_cases hc p with ⟨-, h⟩ | ⟨-, -, h⟩ | ⟨-, -, h⟩ | ⟨k, -, -, -, h⟩ | ⟨k, -, -, h⟩ | ⟨-, h⟩ | ⟨-, h⟩ |
    ⟨-, -, -, -, -, h⟩ <;> rw [h] <;> rfl

end Sys2Proof.Machine
end

