-- ==== Sys2Proof/Laws/Exec.lean ====
section
/-! SUPPORT. What one operation can answer, and what it leaves alone. -/

namespace Sys2Proof.Machine

/-- Everything an operation can answer: a next state, or, for a TAKE of a wire the block does not have, its refusal. -/
theorem exec_cases (i : Instr) (s : State) :
    (∃ t, exec i s = .next t) ∨ (∃ n, i = .take n ∧ s.slots.length ≤ n ∧ exec i s = .refused (.noSuchPort n)) := by
  cases i with
  | take n =>
    simp only [exec, execTake]
    cases h : s.slots[n]? with
    | some x => exact .inl ⟨_, rfl⟩
    | none => exact .inr ⟨n, rfl, by simpa using h, rfl⟩
  | nop => exact .inl ⟨_, rfl⟩
  | start => exact .inl ⟨_, rfl⟩
  | stop => exact .inl ⟨_, rfl⟩
  | hrsv => exact .inl ⟨_, rfl⟩
  | readState => exact .inl ⟨_, rfl⟩
  | uWait => exact .inl ⟨_, rfl⟩
  | uTop => exact .inl ⟨_, rfl⟩
  | uLatch => exact .inl ⟨_, rfl⟩
  | uClk16 => exact .inl ⟨_, rfl⟩
  | uClk17 => exact .inl ⟨_, rfl⟩
  | uSmpa k => exact .inl ⟨_, rfl⟩
  | uSmpb k => exact .inl ⟨_, rfl⟩
  | uAccept => exact .inl ⟨_, rfl⟩
  | uReframe => exact .inl ⟨_, rfl⟩

/-- A TAKE of a wire the block has completes, by `takeSlot`. -/
theorem execTake_eq {s : State} {n : Nat} {x : Slot} (h : s.slots[n]? = some x) :
    exec (.take n) s = .next (takeSlot n x s) := by
  simp [exec, execTake, h]

/-- START, element by element. -/
theorem execStart_eq (s : State) :
    exec .start s = .next { s with
      life := if s.life = .idle then .running else s.life
      startAcc := s.startAcc || decide (s.life = .idle) } := by
  simp only [exec, execStart]
  by_cases h : s.life = .idle
  · simp [h]
  · cases s; simp_all

/-- STOP, element by element. -/
theorem execStop_eq (s : State) :
    exec .stop s = .next { s with life := if s.life = .running then .stopped else s.life } := by
  simp only [exec, execStop]
  by_cases h : s.life = .running
  · simp [h]
  · cases s; simp_all

/-- U_TOP, element by element. -/
theorem execUTop_eq (s : State) :
    exec .uTop s = .next { s with exitReq := s.exitReq || decide (s.life = .stopped) } := by
  simp only [exec, execUTop]
  by_cases h : s.life = .stopped
  · simp [h]
  · cases s; simp_all

/-- U_ACCEPT, element by element. -/
theorem execUAccept_eq (s : State) :
    exec .uAccept s = .next { s with
      win0 := if s.voteCtr = 0 then s.smpFrame else s.win0
      win1 := if s.voteCtr = 1 then s.smpFrame else s.win1
      win2 := if s.voteCtr = 2 then s.smpFrame else s.win2
      stable := stableNext s
      voteCtr := voteNext s.voteCtr
      lastEval := evalFlag s.voteCtr
      lastAgree := agreeFlag s } := by
  simp only [exec, execUAccept, setWin_eq]

/-- No operation writes the parameters, the loop, the position, the inputs or the tick counter. -/
theorem exec_frame {i : Instr} {s t : State} (h : exec i s = .next t) :
    t.cfg = s.cfg ∧ t.loop = s.loop ∧ t.p = s.p ∧ t.inputs = s.inputs ∧ t.tick = s.tick ∧
      t.slots.length = s.slots.length := by
  cases i with
  | take n =>
    simp only [exec, execTake] at h
    split at h
    · cases h; simp
    · cases h
  | start => rw [execStart_eq] at h; cases h; simp
  | stop => rw [execStop_eq] at h; cases h; simp
  | uTop => rw [execUTop_eq] at h; cases h; simp
  | uAccept => rw [execUAccept_eq] at h; cases h; simp
  | uReframe => simp only [exec, execUReframe] at h; cases h; split <;> simp
  | nop => cases h; simp
  | hrsv => cases h; simp
  | readState => cases h; simp
  | uWait => cases h; simp
  | uLatch => cases h; simp
  | uClk16 => cases h; simp
  | uClk17 => cases h; simp
  | uSmpa k => cases h; simp
  | uSmpb k => cases h; simp

/-- Neither does a list of them. -/
theorem runOps_frame {is : List Instr} {s t : State} (h : runOps is s = .next t) :
    t.cfg = s.cfg ∧ t.loop = s.loop ∧ t.p = s.p ∧ t.inputs = s.inputs ∧ t.tick = s.tick ∧
      t.slots.length = s.slots.length := by
  induction is generalizing s with
  | nil => cases h; simp
  | cons i is ih =>
    obtain ⟨a, ha, hr⟩ := andThen_eq_next.1 h
    obtain ⟨h1, h2, h3, h4, h5, h6⟩ := exec_frame ha
    obtain ⟨k1, k2, k3, k4, k5, k6⟩ := ih hr
    exact ⟨k1.trans h1, k2.trans h2, k3.trans h3, k4.trans h4, k5.trans h5, k6.trans h6⟩

theorem runOps_append (a b : List Instr) (s : State) :
    runOps (a ++ b) s = andThen (runOps a s) (runOps b) := by
  induction a generalizing s with
  | nil => rfl
  | cons i a ih =>
    simp only [List.cons_append, runOps]
    cases exec i s <;> simp [ih]

@[simp] theorem runOps_nil (s : State) : runOps [] s = .next s := rfl

@[simp] theorem runOps_single (i : Instr) (s : State) : runOps [i] s = exec i s := by
  simp only [runOps]
  cases exec i s <;> rfl

end Sys2Proof.Machine
end

