-- ==== Sys2Proof/Laws/PerInstr.lean ====
section
/-! SUPPORT. Statements about every operation, one lemma per constructor. -/

namespace Sys2Proof.Laws.EncodePort

/-- R61: the word of an operation stands on the port its format names. -/
def Statement (i : Instr) : Prop := (encode i).format = i.format

theorem nop : Statement .nop := rfl
theorem start : Statement .start := rfl
theorem stop : Statement .stop := rfl
theorem hrsv : Statement .hrsv := rfl
theorem take (i : Nat) : Statement (.take i) := rfl
theorem readState : Statement .readState := rfl
theorem uWait : Statement .uWait := rfl
theorem uTop : Statement .uTop := rfl
theorem uLatch : Statement .uLatch := rfl
theorem uClk16 : Statement .uClk16 := rfl
theorem uClk17 : Statement .uClk17 := rfl
theorem uSmpa (k : BitIndex) : Statement (.uSmpa k) := rfl
theorem uSmpb (k : BitIndex) : Statement (.uSmpb k) := rfl
theorem uAccept : Statement .uAccept := rfl
theorem uReframe : Statement .uReframe := rfl

end Sys2Proof.Laws.EncodePort
end

