-- ==== Sys2Proof/Laws/Tick.lean ====
section
/-! SUPPORT. A tick, said once: what its words decode to, and what each phase does with the operations they decode to. -/

namespace Sys2Proof.Machine

/-- The TAKEs of a tick: one for each wire whose strobe is 1. -/
def takeOps (s : State) : List Instr :=
  ((List.range s.cfg.nPorts).filter (takeStrobe (curIn s))).map Instr.take

/-- The words of a tick decode to its HCMD operation, READ_STATE, its TAKEs and its micro-operations. -/
theorem decodeWords_fetch {s : State} {us : List Instr} (h : decodeWords s.cfg.nPorts (uopWords s) = .ok us) :
    decodeWords s.cfg.nPorts (fetchWords s) = .ok (decodeHcmd (curIn s).hcmd :: .readState :: (takeOps s ++ us)) := by
  have ht := decodeWords_takes s.cfg.nPorts (curIn s) (List.range s.cfg.nPorts) (by simp)
  have := decodeWords_append _ _ _ ht h
  simp only [fetchWords, takeWords, decodeWords, decode, this]
  rfl

/-- The words of the composed block's micro-operations. -/
theorem uopWords_composed {s : State} (h : (curIn s).bench = none) :
    decodeWords s.cfg.nPorts (uopWords s) = .ok (if s.loop = .active then sched s.cfg s.p else []) := by
  simp only [uopWords, h]
  split
  · exact decodeWords_encode _ _ sched_format
  · rfl

/-- The words of a test bench's micro-operations. -/
theorem uopWords_bench {s : State} {ws : List UopWord} {us : List Instr} (h : (curIn s).bench = some ws)
    (hd : ws.map decodeUop = us.map some) : decodeWords s.cfg.nPorts (uopWords s) = .ok us := by
  simp only [uopWords, h]
  exact decodeWords_uops _ _ _ hd

theorem take_blockUnit (n : Nat) : (Instr.take n).blockUnit = none := rfl
theorem readState_blockUnit : Instr.readState.blockUnit = none := rfl
theorem readState_phase : Instr.readState.phase = .read := rfl
theorem readState_format : Instr.readState.format = .port := rfl

/-- The operations of the ports are issued to no unit (R68), so they clash with nothing. -/
theorem unitClash_ports (s : State) (us : List Instr) :
    unitClash (decodeHcmd (curIn s).hcmd :: .readState :: (takeOps s ++ us)) = unitClash us := by
  have ht : ∀ u : BlockUnit, (takeOps s).filter (fun i => decide (i.blockUnit = some u)) = [] := by
    intro u
    rw [List.filter_eq_nil_iff]
    intro i hi
    obtain ⟨k, -, rfl⟩ := List.mem_map.1 hi
    simp [take_blockUnit]
  have hh := (decodeHcmd_phase (curIn s).hcmd).2.1
  simp [unitClash, List.filter_append, ht, hh, readState_blockUnit]

/-- A micro-operation runs in none of the ports' phases, and its phase says which unit it is issued to (R7, R68). -/
theorem uop_phase {i : Instr} (h : i.format = .uop) :
    i.phase ≠ .read ∧ i.phase ≠ .h ∧ i.phase ≠ .t ∧ (i.phase = .c → i.blockUnit = some .controller) ∧
      (i.phase = .p → i.blockUnit = some .pulseGenerator) ∧ (i.phase = .s → i.blockUnit = some .sampler) ∧
      (i.phase = .f → i.blockUnit = some .filter) ∧ (i.phase = .r → i.blockUnit = some .reframer) := by
  cases i with
  | nop => exact absurd h (by decide)
  | start => exact absurd h (by decide)
  | stop => exact absurd h (by decide)
  | hrsv => exact absurd h (by decide)
  | take n => exact absurd (show Format.port = Format.uop from h) (by decide)
  | readState => exact absurd h (by decide)
  | uSmpa k => exact ⟨nofun, nofun, nofun, nofun, nofun, fun _ => rfl, nofun, nofun⟩
  | uSmpb k => exact ⟨nofun, nofun, nofun, nofun, nofun, fun _ => rfl, nofun, nofun⟩
  | uWait => decide
  | uTop => decide
  | uLatch => decide
  | uClk16 => decide
  | uClk17 => decide
  | uAccept => decide
  | uReframe => decide

/-- The phases of a tick's operations: phase H has the command, phase T the TAKEs, and the rest is the
micro-operations'. -/
theorem phaseOps_ports (s : State) (us : List Instr) (hu : ∀ i ∈ us, i.format = .uop) :
    let ops := decodeHcmd (curIn s).hcmd :: .readState :: (takeOps s ++ us)
    phaseOps .read ops = [.readState] ∧ phaseOps .h ops = [decodeHcmd (curIn s).hcmd] ∧
      phaseOps .c ops = phaseOps .c us ∧
      (∀ ph, ph ≠ .read → ph ≠ .h → ph ≠ .t → phaseOps ph (liveOps false ops) = phaseOps ph us) ∧
      (∀ ph, ph ≠ .read → ph ≠ .h → ph ≠ .t → phaseOps ph (liveOps true ops) = []) ∧
      (∀ e, phaseOps .t (liveOps e ops) = takeOps s) := by
  have ht : ∀ ph, (takeOps s).filter (fun i => decide (i.phase = ph)) = if ph = .t then takeOps s else [] := by
    intro ph
    split
    · next h =>
      subst h
      rw [List.filter_eq_self]
      intro i hi
      obtain ⟨k, -, rfl⟩ := List.mem_map.1 hi
      rfl
    · next h =>
      rw [List.filter_eq_nil_iff]
      intro i hi
      obtain ⟨k, -, rfl⟩ := List.mem_map.1 hi
      simpa [show (Instr.take k).phase = .t from rfl] using Ne.symm h
  have hlt : (takeOps s).filter (fun i => decide (i.format ≠ .uop)) = takeOps s := by
    rw [List.filter_eq_self]
    intro i hi
    obtain ⟨k, -, rfl⟩ := List.mem_map.1 hi
    rfl
  have hlu : us.filter (fun i => decide (i.format ≠ .uop)) = [] := by
    rw [List.filter_eq_nil_iff]
    intro i hi
    simp [hu i hi]
  have hph : ∀ ph, ph = .read ∨ ph = .h ∨ ph = .t → us.filter (fun i => decide (i.phase = ph)) = [] := by
    intro ph h
    rw [List.filter_eq_nil_iff]
    intro i hi
    have := uop_phase (hu i hi)
    rcases h with rfl | rfl | rfl
    · simpa using this.1
    · simpa using this.2.1
    · simpa using this.2.2.1
  obtain ⟨h1, -, h3⟩ := decodeHcmd_phase (curIn s).hcmd
  have hr := hph .read (.inl rfl)
  have hh := hph .h (.inr (.inl rfl))
  have htt := hph .t (.inr (.inr rfl))
  refine ⟨?_, ?_, ?_, ?_, ?_, ?_⟩
  · simp [phaseOps, List.filter_append, ht, h1, hr, readState_phase]
  · simp [phaseOps, List.filter_append, ht, h1, hh, readState_phase]
  · simp [phaseOps, List.filter_append, ht, h1, readState_phase]
  · intro ph n1 n2 n3
    simp [phaseOps, liveOps, List.filter_append, ht, h1, readState_phase, n3, Ne.symm n1, Ne.symm n2]
  · intro ph n1 n2 n3
    simp only [phaseOps, liveOps, if_true, List.filter_cons, List.filter_append, hlt, hlu, h3]
    simp [ht, h1, readState_phase, readState_format, n3, Ne.symm n1, Ne.symm n2]
  · intro e
    cases e
    · simp [phaseOps, liveOps, List.filter_append, ht, h1, readState_phase, htt]
    · simp only [phaseOps, liveOps, if_true, List.filter_cons, List.filter_append, hlt, hlu, h3]
      simp [ht, h1, readState_phase, readState_format]

/-- A tick without a clash has at most one operation in each phase of the micro-operations. -/
theorem phaseOps_le_one {us : List Instr} (hc : unitClash us = false) (hu : ∀ i ∈ us, i.format = .uop) (ph : Phase) :
    (phaseOps ph us).length ≤ 1 := by
  have unit : ∀ u : BlockUnit, (us.filter fun i => decide (i.blockUnit = some u)).length ≤ 1 := by
    intro u
    have : ∀ v ∈ BlockUnit.all, ¬ 1 < (us.filter fun i => decide (i.blockUnit = some v)).length := by
      simpa [unitClash] using hc
    have := this u (by cases u <;> decide)
    omega
  have same : ∀ (ph : Phase) (u : BlockUnit), (∀ i : Instr, i.format = .uop → (i.phase = ph → i.blockUnit = some u)) →
      (phaseOps ph us).length ≤ 1 := by
    intro ph u h
    refine le_trans (List.Sublist.length_le ?_) (unit u)
    have e : phaseOps ph us = (us.filter fun i => decide (i.blockUnit = some u)).filter fun i => decide (i.phase = ph) := by
      rw [List.filter_filter]
      unfold phaseOps
      refine List.filter_congr fun i hi => ?_
      by_cases hp : i.phase = ph
      · simp [hp, h i (hu i hi) hp]
      · simp [hp]
    rw [e]
    exact List.filter_sublist
  have none : (∀ i : Instr, i.format = .uop → i.phase ≠ ph) → (phaseOps ph us).length ≤ 1 := by
    intro h
    have : phaseOps ph us = [] := List.filter_eq_nil_iff.2 fun i hi => by simpa using h i (hu i hi)
    simp [this]
  cases ph with
  | read => exact none fun i h => (uop_phase h).1
  | h => exact none fun i h => (uop_phase h).2.1
  | t => exact none fun i h => (uop_phase h).2.2.1
  | c => exact same _ .controller fun i h => (uop_phase h).2.2.2.1
  | p => exact same _ .pulseGenerator fun i h => (uop_phase h).2.2.2.2.1
  | s => exact same _ .sampler fun i h => (uop_phase h).2.2.2.2.2.1
  | f => exact same _ .filter fun i h => (uop_phase h).2.2.2.2.2.2.1
  | r => exact same _ .reframer fun i h => (uop_phase h).2.2.2.2.2.2.2

/-- A phase with at most one operation is empty, or one operation that is the only one of its phase in the tick. -/
theorem phaseOps_cases {us : List Instr} {ph : Phase} (h : (phaseOps ph us).length ≤ 1) :
    (phaseOps ph us = [] ∧ ∀ i ∈ us, i.phase ≠ ph) ∨
      ∃ i, phaseOps ph us = [i] ∧ i.phase = ph ∧ ∀ j, j.phase = ph → (j ∈ us ↔ j = i) := by
  have mem : ∀ j, j ∈ phaseOps ph us ↔ j ∈ us ∧ j.phase = ph := by simp [phaseOps]
  match hp : phaseOps ph us with
  | [] => exact .inl ⟨rfl, fun i hi he => by simpa [hp] using (mem i).2 ⟨hi, he⟩⟩
  | [i] =>
    refine .inr ⟨i, rfl, ((mem i).1 (by simp [hp])).2, fun j hj => ⟨fun hm => ?_, fun e => ?_⟩⟩
    · simpa [hp] using (mem j).2 ⟨hm, hj⟩
    · exact e ▸ ((mem i).1 (by simp [hp])).1
  | a :: b :: l => simp [hp] at h

end Sys2Proof.Machine
end

