-- ==== Sys2Proof/Laws/Phases.lean ====
section
/-! SUPPORT. What each phase of a tick does to the state, given the tick's operations (R7, R118). -/

namespace Sys2Proof.Machine

/-- Phase H (R112, R113, R126, R127): the command's effect on `life` and `start_acc`. -/
theorem exec_hcmd (w : HcmdWord) (s : State) (h : s.startAcc = false) :
    exec (decodeHcmd w) s = .next { s with
      life :=
        if w = 0b01#2 ∧ s.life = .idle then .running
        else if w = 0b10#2 ∧ s.life = .running then .stopped else s.life
      startAcc := decide (w = 0b01#2 ∧ s.life = .idle) } := by
  have hw : w = 0 ∨ w = 1 ∨ w = 2 ∨ w = 3 := by revert w; decide
  cases s with
  | mk cfg life loop p lgBusy lgQ cgBusy cgQ cgN smpA smpFrame win0 win1 win2 voteCtr stable lastEval lastAgree slots
      startAcc exitReq inputs tick out =>
    simp only at h
    subst h
    rcases hw with rfl | rfl | rfl | rfl <;> cases life <;> rfl

/-- Phase C (R114, R115): `exit`, where the tick holds U_TOP and the life is STOPPED. -/
theorem runOps_phaseC {us : List Instr} (hl : (phaseOps .c us).length ≤ 1) (s : State) (h : s.exitReq = false) :
    runOps (phaseOps .c us) s = .next { s with exitReq := decide (.uTop ∈ us ∧ s.life = .stopped) } := by
  rcases phaseOps_cases hl with ⟨he, hn⟩ | ⟨i, he, hp, hj⟩
  · have : .uTop ∉ us := fun hm => hn _ hm rfl
    rw [he]
    simp [this, ← h]
  · rw [he, runOps_single]
    have ht := hj .uTop rfl
    cases i <;> first | (cases hp; done) | skip
    · have : Instr.uTop ∉ us := by rw [ht]; simp
      simp [exec, execUWait, this, ← h]
    · have : Instr.uTop ∈ us := by rw [ht]
      rw [execUTop_eq]
      simp [this, h]

/-- Phase P (R82 to R84): the commands of the tick start the idle generators. -/
theorem runOps_phaseP {us : List Instr} (hl : (phaseOps .p us).length ≤ 1) (s : State) :
    runOps (phaseOps .p us) s = .next { s with
      lgBusy := s.lgBusy || decide (.uLatch ∈ us)
      lgQ := if .uLatch ∈ us ∧ s.lgBusy = false then 0 else s.lgQ
      cgBusy := s.cgBusy || decide (.uClk16 ∈ us ∨ .uClk17 ∈ us)
      cgQ := if (.uClk16 ∈ us ∨ .uClk17 ∈ us) ∧ s.cgBusy = false then 0 else s.cgQ
      cgN :=
        if s.cgBusy = false then (if .uClk16 ∈ us then .p16 else if .uClk17 ∈ us then .p17 else s.cgN)
        else s.cgN } := by
  rcases phaseOps_cases hl with ⟨he, hn⟩ | ⟨i, he, hp, hj⟩
  · have h1 : .uLatch ∉ us := fun hm => hn _ hm rfl
    have h2 : .uClk16 ∉ us := fun hm => hn _ hm rfl
    have h3 : .uClk17 ∉ us := fun hm => hn _ hm rfl
    rw [he]
    simp [h1, h2, h3]
  · rw [he, runOps_single]
    have h1 := hj .uLatch rfl
    have h2 := hj .uClk16 rfl
    have h3 := hj .uClk17 rfl
    cases i <;> first | (cases hp; done) | skip
    · simp [exec, execULatch, startLatch_eq, h1, h2, h3]
    · simp [exec, execUClk16, startTrain_eq, h1, h2, h3]
    · simp [exec, execUClk17, startTrain_eq, h1, h2, h3]

/-- Phase R (R106): every slot takes the frame, where the tick holds U_REFRAME and the window closed. -/
theorem runOps_phaseR {us : List Instr} (hl : (phaseOps .r us).length ≤ 1) (s : State) :
    runOps (phaseOps .r us) s = .next { s with
      slots :=
        if (decide (.uReframe ∈ us) && s.lastEval) = true then s.slots.map fun _ => ⟨true, reframe s.stable⟩
        else s.slots } := by
  rcases phaseOps_cases hl with ⟨he, hn⟩ | ⟨i, he, hp, hj⟩
  · have h1 : .uReframe ∉ us := fun hm => hn _ hm rfl
    rw [he]
    simp [h1]
  · rw [he, runOps_single]
    have h1 := hj .uReframe rfl
    cases i <;> first | (cases hp; done) | skip
    have : Instr.uReframe ∈ us := by rw [h1]
    cases hv : s.lastEval
    · simp only [exec, execUReframe, hv, this]
      cases s
      simp_all
    · simp [exec, execUReframe, hv, this, writeSlots]

/-- Phase F (R99): the window, the vote and the flags, where the tick holds U_ACCEPT. -/
theorem runOps_phaseF {us : List Instr} (hl : (phaseOps .f us).length ≤ 1) (s : State) :
    (.uAccept ∉ us ∧ runOps (phaseOps .f us) s = .next s) ∨
      (.uAccept ∈ us ∧ runOps (phaseOps .f us) s = exec .uAccept s) := by
  rcases phaseOps_cases hl with ⟨he, hn⟩ | ⟨i, he, hp, hj⟩
  · exact .inl ⟨fun hm => hn _ hm rfl, by rw [he]; rfl⟩
  · have h1 := hj .uAccept rfl
    cases i <;> first | (cases hp; done) | skip
    exact .inr ⟨by rw [h1], by rw [he, runOps_single]⟩

/-- Phase S (R92, R93): nothing, a first read, or a second read, and at most one of them. -/
theorem runOps_phaseS {us : List Instr} (hl : (phaseOps .s us).length ≤ 1) (s : State) :
    ((∀ k, .uSmpa k ∉ us) ∧ (∀ k, .uSmpb k ∉ us) ∧ runOps (phaseOps .s us) s = .next s) ∨
      (∃ k, (∀ j, .uSmpa j ∈ us ↔ j = k) ∧ (∀ j, .uSmpb j ∉ us) ∧
        runOps (phaseOps .s us) s = .next { s with smpA := readLine s }) ∨
      (∃ k, (∀ j, .uSmpa j ∉ us) ∧ (∀ j, .uSmpb j ∈ us ↔ j = k) ∧
        runOps (phaseOps .s us) s =
          .next { s with smpFrame := setFrameBit s.smpFrame k (s.smpA && readLine s) }) := by
  rcases phaseOps_cases hl with ⟨he, hn⟩ | ⟨i, he, hp, hj⟩
  · exact .inl ⟨fun k hm => hn _ hm rfl, fun k hm => hn _ hm rfl, by rw [he]; rfl⟩
  · have ha : ∀ j, .uSmpa j ∈ us ↔ Instr.uSmpa j = i := fun j => hj _ rfl
    have hb : ∀ j, .uSmpb j ∈ us ↔ Instr.uSmpb j = i := fun j => hj _ rfl
    cases i <;> first | (cases hp; done) | skip
    case uSmpa k =>
      exact .inr (.inl ⟨k, fun j => by rw [ha]; simp, fun j => by rw [hb]; simp, by rw [he, runOps_single]; rfl⟩)
    case uSmpb k =>
      exact .inr (.inr ⟨k, fun j => by rw [ha]; simp, fun j => by rw [hb]; simp, by rw [he, runOps_single]; rfl⟩)

/-- Phase T (R110): TAKEs of distinct ports all complete; each port named loses its valid bit and hands over its frame. -/
theorem runOps_takes (l : List Nat) (hd : l.Nodup) (s : State) (hl : ∀ n ∈ l, n < s.slots.length)
    (hh : s.out.handed.length = s.slots.length) :
    ∃ t, runOps (l.map Instr.take) s = .next t ∧
      t = { s with slots := t.slots, out := { s.out with handed := t.out.handed } } ∧
      t.slots = s.slots.mapIdx (fun n x => ⟨if n ∈ l ∧ x.valid = true then false else x.valid, x.frame⟩) ∧
      t.out.handed.length = s.slots.length ∧
      ∀ n x, s.slots[n]? = some x →
        t.out.handed[n]? = if n ∈ l ∧ x.valid = true then some (some x.frame) else s.out.handed[n]? := by
  induction l generalizing s with
  | nil =>
    refine ⟨s, rfl, rfl, ?_, hh, by simp⟩
    apply List.ext_getElem?
    intro n
    rw [List.getElem?_mapIdx]
    cases s.slots[n]? <;> simp
  | cons k l ih =>
    have hk := hl k (by simp)
    have hx : s.slots[k]? = some s.slots[k] := List.getElem?_eq_getElem hk
    obtain ⟨t, h1, h2, h3, h4, h5⟩ := ih (List.nodup_cons.1 hd).2 (takeSlot k s.slots[k] s)
      (by intro n hn; simpa using hl n (by simp [hn])) (by
        rw [takeSlot_length, ← hh]
        unfold takeSlot
        split <;> simp)
    have hkl := (List.nodup_cons.1 hd).1
    refine ⟨t, ?_, ?_, ?_, by simpa using h4, ?_⟩
    · simp only [List.map_cons, runOps, execTake_eq hx, andThen_next]
      exact h1
    · rw [h2, takeSlot_out]
      unfold takeSlot
      split <;> rfl
    · rw [h3]
      apply List.ext_getElem?
      intro n
      rw [List.getElem?_mapIdx, List.getElem?_mapIdx, takeSlot_slots _ _ _ hx]
      by_cases hn : n = k
      · subst hn
        simp [hkl, hx]
      · simp [hn]
    · intro n x hn
      have := h5 n (if n = k then ⟨false, s.slots[k].frame⟩ else x) (by
        rw [takeSlot_slots _ _ _ hx]
        by_cases hnk : n = k <;> simp [hnk, hn])
      rw [this, takeSlot_handed]
      have hlt : n < s.out.handed.length := by
        rw [hh]
        by_contra hc
        rw [List.getElem?_eq_none (by omega)] at hn
        simp at hn
      by_cases hnk : n = k
      · subst hnk
        rw [hx] at hn
        cases hn
        by_cases hv : s.slots[n].valid = true <;> simp [hkl, hv, hlt]
      · simp [hnk]

/-- UOP words all decode, or one of them is illegal. -/
theorem uopWords_or (ws : List UopWord) :
    (∃ us : List Instr, ws.map decodeUop = us.map some) ∨ ∃ w ∈ ws, decodeUop w = none := by
  induction ws with
  | nil => exact .inl ⟨[], rfl⟩
  | cons w ws ih =>
    cases hw : decodeUop w with
    | none => exact .inr ⟨w, by simp, hw⟩
    | some i =>
      rcases ih with ⟨us, h⟩ | ⟨v, hv, h⟩
      · exact .inl ⟨i :: us, by simp [hw, h]⟩
      · exact .inr ⟨v, by simp [hv], h⟩

/-- The first word that does not decode is the answer for the whole list. -/
theorem decodeWords_append_error (n : Nat) (a b : List PortWord) {is : List Instr} {r : Refusal}
    (ha : decodeWords n a = .ok is) (hb : decodeWords n b = .error r) : decodeWords n (a ++ b) = .error r := by
  induction a generalizing is with
  | nil => simpa using hb
  | cons w ws ih =>
    simp only [decodeWords, List.cons_append] at ha ⊢
    cases hw : decode n w with
    | op i =>
      simp only [hw] at ha ⊢
      cases hr : decodeWords n ws with
      | ok ks => simp [ih hr]
      | error r => simp only [hr] at ha; cases ha
    | noTake i => simp only [hw] at ha ⊢; exact ih ha
    | illegalUop u => simp only [hw] at ha; cases ha
    | noSuchPort i => simp only [hw] at ha; cases ha

/-- A tick whose UOP words do not decode does not decode. -/
theorem decodeWords_fetch_error {s : State} {r : Refusal} (h : decodeWords s.cfg.nPorts (uopWords s) = .error r) :
    decodeWords s.cfg.nPorts (fetchWords s) = .error r := by
  have ht := decodeWords_takes s.cfg.nPorts (curIn s) (List.range s.cfg.nPorts) (by simp)
  have := decodeWords_append_error _ _ _ ht h
  simp only [fetchWords, takeWords, decodeWords, decode, this]

end Sys2Proof.Machine
end

