-- ==== Sys2Proof/Laws/Run.lean ====
section
/-! SUPPORT. Runs of the machine a step at a time, and the positions of the waveforms of a legal parameter set. -/

namespace Sys2Proof.Machine

theorem run_zero (s : State) : Sys2Proof.core.run 0 s = .next s := rfl

/-- A run of `n + 1` ticks is a step and a run of `n`. -/
theorem run_succ (n : Nat) (s : State) :
    Sys2Proof.core.run (n + 1) s = andThen (step s) (Sys2Proof.core.run n) := by
  rw [Host.Core.run.eq_2 Sys2Proof.core s n, show Sys2Proof.core.step s = step s from rfl]
  cases step s <;> rfl

/-- R12, R13: where the positions of a cycle lie. -/
theorem positions_order {c : Params} (hc : c.Legal) :
    2 ≤ c.t0 ∧ c.latchWidth < c.t0 ∧ c.t0 < c.acceptPos ∧ c.acceptPos < c.reframePos ∧
      c.reframePos < c.pollInterval := by
  obtain ⟨h1, h2, h3, h4, h5, h6, h7, h8⟩ := hc
  have := positions c
  omega

/-- The falling edges `F(j)`, by the phase of the clock period. -/
theorem fallAt_iff {c : Params} (hc : c.Legal) (p : Nat) :
    (∃ j < 16, p = c.fallAt j) ↔ c.t0 ≤ p ∧ p < c.acceptPos ∧ (p - c.t0) % c.clkPeriod = 0 := by
  have pos := positions c
  have hpr : 1 ≤ c.clkPeriod := by have := hc.2.1; have := hc.2.2.1; omega
  constructor
  · rintro ⟨j, hj, rfl⟩
    have : (j + 1) * c.clkPeriod ≤ 16 * c.clkPeriod := Nat.mul_le_mul_right _ (by omega)
    have e : (j + 1) * c.clkPeriod = j * c.clkPeriod + c.clkPeriod := by ring
    unfold Params.fallAt
    refine ⟨by omega, by omega, by simp⟩
  · rintro ⟨h1, h2, h3⟩
    obtain ⟨j, hj⟩ := Nat.dvd_of_mod_eq_zero h3
    rw [Nat.mul_comm] at hj
    refine ⟨j, ?_, by unfold Params.fallAt; omega⟩
    have : j * c.clkPeriod < 16 * c.clkPeriod := by omega
    exact Nat.lt_of_mul_lt_mul_right this

/-- The rising edges `R(j)`, by the phase of the clock period. -/
theorem riseAt_iff {c : Params} (hc : c.Legal) (p : Nat) :
    (∃ j < 16, p = c.riseAt j) ↔ c.t0 ≤ p ∧ p < c.acceptPos ∧ (p - c.t0) % c.clkPeriod = c.clkLow := by
  have pos := positions c
  have hl := hc.2.1
  have hp := hc.2.2.1
  constructor
  · rintro ⟨j, hj, rfl⟩
    have : (j + 1) * c.clkPeriod ≤ 16 * c.clkPeriod := Nat.mul_le_mul_right _ (by omega)
    have e : (j + 1) * c.clkPeriod = j * c.clkPeriod + c.clkPeriod := by ring
    unfold Params.riseAt Params.fallAt
    refine ⟨by omega, by omega, ?_⟩
    rw [show c.t0 + j * c.clkPeriod + c.clkLow - c.t0 = c.clkLow + j * c.clkPeriod by omega,
      Nat.add_mul_mod_self_right, Nat.mod_eq_of_lt hp]
  · rintro ⟨h1, h2, h3⟩
    have := Nat.div_add_mod (p - c.t0) c.clkPeriod
    rw [h3] at this
    refine ⟨(p - c.t0) / c.clkPeriod, ?_, by unfold Params.riseAt Params.fallAt; rw [Nat.mul_comm] at this; omega⟩
    rw [Nat.div_lt_iff_lt_mul (by omega)]
    omega

/-- A bit's second read comes before any later bit's first read. -/
theorem reads_apart {c : Params} (hc : c.Legal) {j k : Nat} (h : c.readA k < c.readA j) : c.readB k < c.readA j := by
  have : k < j := by
    by_contra hn
    have : j * c.clkPeriod ≤ k * c.clkPeriod := Nat.mul_le_mul_right _ (by omega)
    rw [readA_eq, readA_eq] at h
    omega
  have : (k + 1) * c.clkPeriod ≤ j * c.clkPeriod := Nat.mul_le_mul_right _ (by omega)
  have e : (k + 1) * c.clkPeriod = k * c.clkPeriod + c.clkPeriod := by ring
  have := hc.2.2.2.2.2.1
  rw [readA_eq, readB_eq]
  omega

end Sys2Proof.Machine
end

