-- ==== Sys2Proof/Tests/Slice0.lean ====
section
/-! SUPPORT. The model's own tests: words and vectors of spec/95_test_vectors.md, the WellFormed smoke test, and a witness
for the hypotheses of every statement of Obligations.lean. Expected values come from spec/, named in each docstring. -/

namespace Sys2Proof.Tests

open Sys2Proof Sys2Proof.Machine Sys2Proof.Spec

/-! ### Helpers -/

/-- The reset state with the inputs `l` pending. -/
def idle (l : List TickIn) : State := { State.reset with inputs := l }

/-- A tick with the command `w`. -/
def cmd (w : HcmdWord) : TickIn := { TickIn.quiet with hcmd := w }

/-- A tick with the level `b` on the line. -/
def line (b : Bool) : TickIn := { TickIn.quiet with data := some b }

/-- A tick in which a test bench issues the words `ws`. -/
def bench (ws : List UopWord) : TickIn := { TickIn.quiet with bench := some ws }

/-- The default block in a cycle: position `p`, the generators as R87 has them there. -/
def inCycle (p : Nat) (l : List TickIn) : State :=
  { State.reset with
    life := .running, loop := .active, p := p
    lgBusy := decide (0 < p ∧ p < 12), lgQ := if 0 < p ∧ p < 12 then p else 0
    cgBusy := decide (18 < p ∧ p < 210), cgQ := if 18 < p ∧ p < 210 then p - 18 else 0
    inputs := l }

/-- The default block after the exit of its loop. -/
def exited (l : List TickIn) : State := { State.reset with life := .stopped, loop := .exited, inputs := l }

/-- A third call of a window about to agree on a new value. -/
def aboutToAgree : State :=
  { inCycle 210 [] with voteCtr := 2, win0 := 0x00FF, win1 := 0x00FF, smpFrame := 0x00FF }

/-- A predicate of the next state, evaluated. -/
def nextIs (o : Host.Outcome State Fault Refusal) (f : State → Bool) : Bool := (nextState? o).any f

theorem next_of {o : Host.Outcome State Fault Refusal} {f : State → Bool} (h : nextIs o f = true) :
    ∃ t, o = .next t ∧ f t = true := by
  cases o with
  | next s => exact ⟨s, rfl, h⟩
  | fault r => exact absurd h (by simp [nextIs, nextState?])
  | refused r => exact absurd h (by simp [nextIs, nextState?])

/-! ### Decoding (file 95, V7 to V14) -/

/-- V7. -/
theorem test_hcmd_words :
    decode 1 (.hcmd 0b00#2) = .op .nop ∧ decode 1 (.hcmd 0b01#2) = .op .start ∧
    decode 1 (.hcmd 0b10#2) = .op .stop ∧ decode 1 (.hcmd 0b11#2) = .op .hrsv := by decide

/-- V8. -/
theorem test_uop_words_controller_and_pulse :
    decode 1 (.uop 0b0000_0000#8) = .op .uWait ∧ decode 1 (.uop 0b0001_0000#8) = .op .uTop ∧
    decode 1 (.uop 0b0010_0000#8) = .op .uLatch ∧ decode 1 (.uop 0b0011_0000#8) = .op .uClk16 ∧
    decode 1 (.uop 0b0100_0000#8) = .op .uClk17 := by decide

/-- V9. -/
theorem test_uop_words_smpa :
    decode 1 (.uop 0b0101_0000#8) = .op (.uSmpa 0) ∧ decode 1 (.uop 0b0101_1010#8) = .op (.uSmpa 10) ∧
    decode 1 (.uop 0b0101_1111#8) = .op (.uSmpa 15) := by decide

/-- V10. -/
theorem test_uop_words_smpb :
    decode 1 (.uop 0b0110_0000#8) = .op (.uSmpb 0) ∧ decode 1 (.uop 0b0110_0011#8) = .op (.uSmpb 3) ∧
    decode 1 (.uop 0b0110_1111#8) = .op (.uSmpb 15) := by decide

/-- V11. -/
theorem test_uop_words_filter_and_reframer :
    decode 1 (.uop 0b0111_0000#8) = .op .uAccept ∧ decode 1 (.uop 0b1000_0000#8) = .op .uReframe := by decide

/-- V12. -/
theorem test_uop_words_illegal :
    ∀ w ∈ [0x01#8, 0x2F#8, 0x71#8, 0x81#8, 0x90#8, 0xA5#8, 0xFF#8], decode 1 (.uop w) = .illegalUop w := by decide

/-- R65, R66: the strobes of a block with two ports, and the read. -/
theorem test_port_words :
    decode 2 (.take 1 1#1) = .op (.take 1) ∧ decode 2 (.take 1 0#1) = .noTake 1 ∧
    decode 2 (.take 2 1#1) = .noSuchPort 2 ∧ decode 2 .stateOut = .op .readState := by decide

/-- V13, V14. -/
theorem test_schedule_words :
    (sched Params.default 18).map encode = [.uop 0x30#8, .uop 0x50#8] ∧
    (sched Params.default 0).map encode = [.uop 0x10#8, .uop 0x20#8] ∧
    (sched Params.default 19).map encode = [.uop 0x60#8] ∧ (sched Params.default 199).map encode = [.uop 0x6F#8] ∧
    (sched Params.default 210).map encode = [.uop 0x70#8] ∧ (sched Params.default 211).map encode = [.uop 0x80#8] ∧
    (sched Params.default 212).map encode = [.uop 0x00#8] ∧ (sched Params.default 4999).map encode = [.uop 0x00#8] := by
  decide

/-- Log entry 14: how a bare table word is read. -/
theorem test_table_words :
    decodeTableWord 8 0x00 = some .uWait ∧ decodeTableWord 8 0x01 = some .start ∧
    decodeTableWord 8 0x03 = some .hrsv ∧ decodeTableWord 2 0 = some .nop ∧ decodeTableWord 1 1 = some (.take 0) ∧
    decodeTableWord 0 0 = some .readState ∧ decodeTableWord 8 0x40 = some .uClk17 ∧ decodeTableWord 8 0x90 = none := by
  decide

/-! ### WellFormed: the one check, and a term it refuses -/

/-- R65: a block with one port has no wire 1. -/
theorem smoke_take_index : (Instr.take 1).wellFormed 1 = false ∧ (Instr.take 0).wellFormed 1 = true := by decide

/-! ### Construction (V3 to V6) -/

/-- V3. -/
theorem test_init_failure : (fault? (construct Params.default false)).map faultCode = some 1 := by decide

/-- V4, V5, V6. -/
theorem test_illegal_parameters :
    refusal? (construct { Params.default with pollInterval := 200 } true) = some .illegalParameters ∧
    refusal? (construct { Params.default with clkLow := 12 } true) = some .illegalParameters ∧
    refusal? (construct { Params.default with rereadGap := 12 } true) = some .illegalParameters := by decide

/-! ### One operation, one step -/

/-- V2: NOP in tick 0 leaves IDLE as it was. -/
theorem test_nop : nextIs (step (idle [cmd 0b00#2])) (fun t =>
    decide (t.life = .idle ∧ t.loop = .waiting ∧ t.p = 0 ∧ t.stable = 0xFFFF#16 ∧ t.out.clockOut = true)) = true := by
  decide

/-- V58. -/
theorem test_start : nextIs (step (idle [cmd 0b01#2])) (fun t =>
    decide (t.life = .running ∧ t.loop = .active ∧ t.p = 0 ∧ t.out.lifeOut = 0#2 ∧ t.out.latchOut = false)) = true := by
  decide

/-- V59. -/
theorem test_stop_in_idle : nextIs (step (idle [cmd 0b10#2])) (fun t => decide (t.life = .idle)) = true := by decide

/-- V62: a STOP in the tick of a top exits in that tick, with no latch pulse. -/
theorem test_stop_at_top : nextIs (step (inCycle 0 [cmd 0b10#2])) (fun t =>
    decide (t.life = .stopped ∧ t.loop = .exited ∧ t.p = 0 ∧ t.lgBusy = false ∧ t.out.latchOut = false ∧
      t.out.lifeOut = 1#2 ∧ t.out.loopOut = 1#2)) = true := by decide

/-- V63: a STOP at position 4999 does not exit in its own tick. -/
theorem test_stop_before_top : nextIs (step (inCycle 4999 [cmd 0b10#2])) (fun t =>
    decide (t.life = .stopped ∧ t.loop = .active ∧ t.p = 0)) = true := by decide

/-- V65. -/
theorem test_hrsv : nextIs (step (inCycle 1000 [cmd 0b11#2])) (fun t =>
    decide (t.life = .running ∧ t.p = 1001)) = true := by decide

/-- V52. -/
theorem test_take : nextIs (step { idle [{ TickIn.quiet with takes := [true] }] with slots := [⟨true, 0x1FFFE#17⟩] })
    (fun t => decide (t.slots = [⟨false, 0x1FFFE#17⟩] ∧ t.out.handed = [some 0x1FFFE#17])) = true := by decide

/-- V53. -/
theorem test_take_empty :
    nextIs (step { idle [{ TickIn.quiet with takes := [true] }] with slots := [⟨false, 0x1FFFE#17⟩] })
      (fun t => decide (t.slots = [⟨false, 0x1FFFE#17⟩] ∧ t.out.handed = [none])) = true := by decide

/-- V66: in the tick of the agreeing U_ACCEPT the read still returns the old value. -/
theorem test_read_state : nextIs (step aboutToAgree) (fun t =>
    decide (t.out.stateOut = 0xFFFF#16 ∧ t.stable = 0x00FF#16)) = true := by decide

/-- R115, its example. -/
theorem test_wait : nextIs (step (inCycle 1000 [])) (fun t =>
    decide (t = { inCycle 1001 [] with tick := 1, out := t.out })) = true := by decide

/-- R114, its example. -/
theorem test_top_stopped : nextIs (step { inCycle 0 [] with life := .stopped }) (fun t =>
    decide (t.loop = .exited ∧ t.out.latchOut = false)) = true := by decide

/-- V58, V20: the latch rises at position 0. -/
theorem test_latch : nextIs (step (inCycle 0 [])) (fun t =>
    decide (t.out.latchOut = true ∧ t.lgBusy = true ∧ t.lgQ = 1 ∧ t.p = 1)) = true := by decide

/-- V16: a command to the busy latch generator is ignored. -/
theorem test_latch_busy : nextIs (step { idle [bench [0x20#8]] with lgBusy := true, lgQ := 5 }) (fun t =>
    decide (t.lgBusy = true ∧ t.lgQ = 6 ∧ t.out.latchOut = true)) = true := by decide

/-- V17: the train falls in the tick of its command. -/
theorem test_clk16 : nextIs (step (idle [bench [0x30#8]])) (fun t =>
    decide (t.out.clockOut = false ∧ t.cgBusy = true ∧ t.cgQ = 1 ∧ t.cgN = .p16)) = true := by decide

/-- V17: the last tick of the train is high and ends it. -/
theorem test_clk16_end : nextIs (step { idle [] with cgBusy := true, cgQ := 191 }) (fun t =>
    decide (t.out.clockOut = true ∧ t.cgBusy = false ∧ t.cgQ = 0 ∧ t.cgN = .p16)) = true := by decide

/-- V18: at tick 191 of a 17-pulse train the train goes on. -/
theorem test_clk17 : nextIs (step { idle [] with cgBusy := true, cgQ := 191, cgN := .p17 }) (fun t =>
    decide (t.cgBusy = true ∧ t.cgQ = 192)) = true := by decide

/-- V19. -/
theorem test_clk17_busy : nextIs (step { idle [bench [0x40#8]] with cgBusy := true, cgQ := 100 }) (fun t =>
    decide (t.cgN = .p16 ∧ t.cgQ = 101)) = true := by decide

/-- R92, its example: `A(3)` is position 54. -/
theorem test_smpa : nextIs (step (inCycle 54 [line false])) (fun t => decide (t.smpA = false)) = true := by decide

/-- V29: the second read of bit 3, at position 55, after a low first read. -/
theorem test_smpb : nextIs (step { inCycle 55 [line true] with smpA := false }) (fun t =>
    decide (t.smpFrame = 0xFFF7#16)) = true := by decide

/-- V27: (1, 1) keeps the bit high. -/
theorem test_smpb_high : nextIs (step { inCycle 55 [line true] with smpFrame := 0x0000 }) (fun t =>
    decide (t.smpFrame = 0x0008#16)) = true := by decide

/-- V33. -/
theorem test_accept_agree : nextIs (step aboutToAgree) (fun t =>
    decide (t.stable = 0x00FF#16 ∧ t.lastEval = true ∧ t.lastAgree = true ∧ t.voteCtr = 0)) = true := by decide

/-- V37: a reserved bit alone breaks the vote. -/
theorem test_accept_reserved_bit :
    nextIs (step { aboutToAgree with stable := 0x0123, win0 := 0x1123, win1 := 0x0123, smpFrame := 0x0123 }) (fun t =>
      decide (t.stable = 0x0123#16 ∧ t.lastEval = true ∧ t.lastAgree = false ∧ t.voteCtr = 0)) = true := by decide

/-- V54: TAKE and U_REFRAME in one tick. -/
theorem test_reframe_and_take :
    nextIs (step { inCycle 211 [{ TickIn.quiet with takes := [true] }] with
        slots := [⟨true, 0x001FE#17⟩], stable := 0x0000, lastEval := true }) (fun t =>
      decide (t.slots = [⟨true, 0x00000#17⟩] ∧ t.out.handed = [some 0x001FE#17])) = true := by decide

/-- V56. -/
theorem test_reframe_no_window : nextIs (step { inCycle 211 [] with slots := [⟨false, 0x001FE#17⟩] }) (fun t =>
    decide (t.slots = [⟨false, 0x001FE#17⟩])) = true := by decide

/-- V44 to V51. -/
theorem test_reframe_values :
    reframe 0x0000 = 0x00000#17 ∧ reframe 0xFFFF = 0x1FFFE#17 ∧ reframe 0x00FF = 0x001FE#17 ∧
    reframe 0x8000 = 0x10000#17 ∧ reframe 0x0001 = 0x00002#17 ∧ reframe 0xA5A5 = 0x14B4A#17 ∧
    reframe 0x7FFF = 0x0FFFE#17 ∧ reframe 0x0FFF = 0x01FFE#17 := by decide

/-- R72: a script's inputs: the command, the strobe and the level of bit 3 of cycle 0 (positions 54 and 55). -/
theorem test_script :
    let sc : Script := ⟨[⟨0, .start⟩, ⟨7, .take 0⟩], [.bit 0 3 false]⟩
    (scriptIn Params.default sc 0).hcmd = 0b01#2 ∧ (scriptIn Params.default sc 7).takes = [true] ∧
    (scriptIn Params.default sc 55).data = some false ∧ (scriptIn Params.default sc 56).data = some false ∧
    (scriptIn Params.default sc 57).data = none := by decide

/-! ### Witnesses: concrete states and operands that meet the hypotheses of each statement -/

theorem inv_idle : BlockInv (idle []) := by constructor <;> decide
theorem inv_start : BlockInv (idle [cmd 0b01#2]) := by constructor <;> decide
theorem inv_exited : BlockInv (exited []) := by constructor <;> decide
theorem inv_top : BlockInv (inCycle 0 []) := by constructor <;> decide
theorem inv_last : BlockInv (inCycle 4999 []) := by constructor <;> decide
theorem inv_latch_end : BlockInv (inCycle 11 []) := by constructor <;> decide
theorem inv_train : BlockInv (inCycle 19 []) := by constructor <;> decide
theorem inv_agree : BlockInv aboutToAgree := by constructor <;> decide

theorem wit_ConstructionOutcome :
    ¬ { Params.default with latchWidth := 0 }.Legal ∧ Params.default.Legal := by decide

theorem wit_ResetStateOfEveryInstance : ∃ s, construct Params.default true = .next s := ⟨_, rfl⟩

theorem wit_EveryComposedTickCompletes :
    (Instr.take 0).wellFormed State.reset.slots.length = true ∧ State.reset.cfg.Legal ∧ RangesOk State.reset ∧
      (curIn State.reset).bench = none := by decide

/-- One state for each unreachable value of the statement, `cg_q` at its first value too large, 192 and 204. -/
theorem wit_UnreachableStatesAreRefused :
    (∃ s : State, s.cfg.Legal ∧ s.lgBusy = false ∧ s.lgQ ≠ 0) ∧
    (∃ s : State, s.cfg.Legal ∧ s.cgBusy = false ∧ s.cgQ ≠ 0) ∧
    (∃ s : State, s.cfg.Legal ∧ s.cgBusy = true ∧ s.cfg.clkPeriod * pulseCount s.cgN = 192 ∧ s.cgQ = 192) ∧
    (∃ s : State, s.cfg.Legal ∧ s.cgBusy = true ∧ s.cfg.clkPeriod * pulseCount s.cgN = 204 ∧ s.cgQ = 204) ∧
    (∃ s : State, s.cfg.Legal ∧ s.p ≠ 0 ∧ s.loop ≠ .active) :=
  ⟨⟨{ State.reset with lgQ := 1 }, by decide⟩, ⟨{ State.reset with cgQ := 1 }, by decide⟩,
    ⟨{ State.reset with cgBusy := true, cgQ := 192 }, by decide⟩,
    ⟨{ State.reset with cgBusy := true, cgQ := 204, cgN := .p17 }, by decide⟩,
    ⟨{ State.reset with p := 1 }, by decide⟩⟩

/-- One parameter set for each constraint of R13, one tick beyond its bound; and each bound itself is legal. -/
theorem wit_IllegalParametersAreRefused :
    { Params.default with latchWidth := 0 }.latchWidth = 0 ∧ { Params.default with clkLow := 0 }.clkLow = 0 ∧
    { Params.default with clkLow := 12 }.clkPeriod ≤ 12 ∧ { Params.default with latchClockGap := 0 }.latchClockGap = 0 ∧
    { Params.default with rereadGap := 0 }.rereadGap = 0 ∧ { Params.default with rereadGap := 12 }.clkPeriod ≤ 0 + 12 ∧
    { Params.default with pollInterval := 211 }.pollInterval < 12 + 6 + 16 * 12 + 2 ∧
    { Params.default with portBinding := [] }.portBinding = [] ∧
    Params.Legal ⟨1, 12, 11, 1, 0, 11, 196, [⟨0, 1⟩], 0xFFFF⟩ := by decide

theorem wit_DecodeAndEncodeAgree :
    (Instr.take 2).wellFormed 3 = true ∧ decode 3 (.take 2 1#1) = .op (.take 2) ∧
    decode 3 (.uop 0x6F#8) = .op (.uSmpb 15) := by decide

/-- The words next to the legal ones, and a tick that meets an illegal word behind a legal one. -/
theorem wit_IllegalUopWordsAreRefused :
    decode 1 (.uop 0x81#8) = .illegalUop 0x81#8 ∧ decode 1 (.uop 0x8F#8) = .illegalUop 0x8F#8 ∧
    decode 1 (.uop 0x90#8) = .illegalUop 0x90#8 ∧ Instr.uTop ∈ sched Params.default 0 ∧
    (idle [bench [0x20#8, 0x90#8]]).cfg.Legal ∧ RangesOk (idle [bench [0x20#8, 0x90#8]]) ∧
    (curIn (idle [bench [0x20#8, 0x90#8]])).bench = some [0x20#8, 0x90#8] ∧
    ∃ w ∈ [0x20#8, 0x90#8], decodeUop w = none := by decide

theorem wit_TwoUopsForOneUnitAreRefused :
    (idle [bench [0x30#8, 0x40#8]]).cfg.Legal ∧ RangesOk (idle [bench [0x30#8, 0x40#8]]) ∧
    (curIn (idle [bench [0x30#8, 0x40#8]])).bench = some [0x30#8, 0x40#8] ∧
    [0x30#8, 0x40#8].map decodeUop = [Instr.uClk16, Instr.uClk17].map some ∧
    List.Sublist [Instr.uClk16, Instr.uClk17] [Instr.uClk16, Instr.uClk17] ∧
    Instr.uClk16.blockUnit = Instr.uClk17.blockUnit := by decide

theorem wit_StepRunsTheDecodedWords :
    ∃ ops, State.reset.cfg.Legal ∧ RangesOk State.reset ∧
      decodeWords State.reset.cfg.nPorts (fetchWords State.reset) = .ok ops ∧ unitClash ops = false :=
  ⟨[.nop, .readState], by decide, by decide, rfl, by decide⟩

/-- A micro-operation in a state whose schedule is running, and a command and a strobe in one whose schedule is not. -/
theorem wit_StepRunsThePlacedWord :
    (decodeTableWord 8 0x20 = some .uLatch ∧ (inCycle 0 []).cfg.Legal ∧ RangesOk (inCycle 0 []) ∧
      Instr.uLatch.format = .uop) ∧
    (decodeTableWord 8 0x01 = some .start ∧ decodeTableWord 1 1 = some (.take 0) ∧ State.reset.cfg.Legal ∧
      RangesOk State.reset ∧ State.reset.loop ≠ .active) := by decide

/-- A top, the tick of both reads' first, and a tick out of the cycle. -/
theorem wit_StepIsTheTickOfTheSpec :
    (∀ s ∈ [inCycle 0 [], inCycle 18 [], idle []], s.cfg.Legal ∧ RangesOk s ∧ (curIn s).bench = none) := by decide

theorem wit_BenchTickIsTheTickOfTheSpec :
    (idle [bench [0x40#8, 0x53#8]]).cfg.Legal ∧ RangesOk (idle [bench [0x40#8, 0x53#8]]) ∧
    (curIn (idle [bench [0x40#8, 0x53#8]])).bench = some [0x40#8, 0x53#8] ∧
    [0x40#8, 0x53#8].map decodeUop = [Instr.uClk17, Instr.uSmpa 3].map some ∧
    unitClash [Instr.uClk17, Instr.uSmpa 3] = false := by decide

theorem wit_HostCommandEffects :
    (idle []).life = .idle ∧ (inCycle 0 []).life = .running ∧ (exited []).life = .stopped := by decide

theorem wit_ReservedCommandIsNop :
    (inCycle 1000 []).life = .running ∧ ∃ t, step (withHcmd 0b11#2 (inCycle 1000 [])) = .next t :=
  ⟨rfl, (next_of (f := fun _ => true) (by decide)).imp fun _ h => h.1⟩

/-- A START, and a top with a STOP. -/
theorem wit_LifecycleTables :
    (startAccepted (idle [cmd 0b01#2]) ∧ ∃ t, step (idle [cmd 0b01#2]) = .next t) ∧
    BlockInv (inCycle 0 [cmd 0b10#2]) ∧ exitsNow (inCycle 0 [cmd 0b10#2]) ∧
      ∃ t, step (inCycle 0 [cmd 0b10#2]) = .next t :=
  ⟨⟨by decide, (next_of (f := fun _ => true) (by decide)).imp fun _ h => h.1⟩, by constructor <;> decide, by decide,
    (next_of (f := fun _ => true) (by decide)).imp fun _ h => h.1⟩

theorem wit_NoRestartFromStopped :
    (exited [cmd 0b01#2]).life = .stopped ∧ (exited [cmd 0b01#2]).loop = .exited ∧
      ∃ t : State, Sys2Proof.core.run 1 (exited [cmd 0b01#2]) = .next t := by
  refine ⟨rfl, rfl, ?_⟩
  obtain ⟨t, h, -⟩ := next_of (o := step (exited [cmd 0b01#2])) (f := fun _ => true) (by decide)
  exact ⟨t, by rw [run_succ, h]; rfl⟩

/-- The last position of a cycle. -/
theorem wit_CycleTimingFromStart :
    BlockInv (idle [cmd 0b01#2]) ∧ startAccepted (idle [cmd 0b01#2]) ∧ 4999 < (idle [cmd 0b01#2]).cfg.pollInterval ∧
      ∀ i ∈ (idle [cmd 0b01#2]).inputs, i.hcmd ≠ 0b10#2 := ⟨inv_start, by decide, by decide, by decide⟩

/-- A STOP at the top, just after it and just before the next (V62, V64, V63). -/
theorem wit_ExitLatencyAfterStop :
    (BlockInv (inCycle 0 [cmd 0b10#2]) ∧ BlockInv (inCycle 1 [cmd 0b10#2]) ∧ BlockInv (inCycle 4999 [cmd 0b10#2])) ∧
    ∀ p ∈ [0, 1, 4999], (inCycle p [cmd 0b10#2]).loop = .active ∧ (inCycle p [cmd 0b10#2]).life = .running ∧
      (curIn (inCycle p [cmd 0b10#2])).hcmd = 0b10#2 :=
  ⟨⟨by constructor <;> decide, by constructor <;> decide, by constructor <;> decide⟩, by decide⟩

/-- The first and the last position past the top, RUNNING against STOPPED; a run up to the next top and one over two
ticks whose inputs differ in a STOP; and a top that exits. -/
theorem wit_CycleIsNeverCut :
    (BlockInv (inCycle 1 []) ∧ BlockInv (inCycle 4999 []) ∧ (inCycle 1 []).loop = .active ∧ (inCycle 1 []).p ≠ 0 ∧
      (inCycle 4999 []).loop = .active ∧ (inCycle 4999 []).p ≠ 0 ∧ Life.running ≠ .idle ∧ Life.stopped ≠ .idle) ∧
    (BlockInv { inCycle 1 [] with inputs := [cmd 0b10#2, line true] } ∧
      SameButHcmd [cmd 0b10#2, line true] [cmd 0b00#2, line true] ∧ 4999 ≤ (inCycle 1 []).cfg.pollInterval - 1) ∧
    BlockInv (inCycle 0 []) ∧ BlockInv (inCycle 0 [cmd 0b10#2]) ∧ exitsNow (inCycle 0 [cmd 0b10#2]) ∧
      ∃ t, step (inCycle 0 [cmd 0b10#2]) = .next t :=
  ⟨⟨by constructor <;> decide, inv_last, by decide⟩, ⟨by constructor <;> decide, by unfold SameButHcmd; decide, by decide⟩,
    inv_top, by constructor <;> decide, by decide, (next_of (f := fun _ => true) (by decide)).imp fun _ h => h.1⟩

theorem wit_AfterTheExitOnlyTakeActs :
    BlockInv (exited []) ∧ (exited []).loop = .exited ∧ ∃ t, step (exited []) = .next t :=
  ⟨inv_exited, rfl, (next_of (f := fun _ => true) (by decide)).imp fun _ h => h.1⟩

theorem wit_WithoutStartTheBlockStaysIdle :
    Params.default.Legal ∧ Composed { State.initial Params.default with inputs := [cmd 0b10#2] } ∧
      (∀ i ∈ [cmd 0b10#2], i.hcmd ≠ 0b01#2) ∧
      ∃ t : State, Sys2Proof.core.run 1 { State.initial Params.default with inputs := [cmd 0b10#2] } = .next t := by
  refine ⟨by decide, by decide, by decide, ?_⟩
  obtain ⟨t, h, -⟩ := next_of (o := step (idle [cmd 0b10#2])) (f := fun _ => true) (by decide)
  exact ⟨t, by rw [run_succ]; exact (congrArg (andThen · (Sys2Proof.core.run 0)) h).trans rfl⟩

theorem wit_ControllerUopEffects : (exited []).life = .stopped ∧ (inCycle 0 []).life ≠ .stopped := by decide

/-- The two ticks with two micro-operations. -/
theorem wit_ScheduleIssuesExactly :
    Params.default.Legal ∧ 1 < (sched Params.default 0).length ∧ 1 < (sched Params.default 18).length := by decide

theorem wit_ScheduleNeverClashes :
    Params.default.Legal ∧ BlockInv (inCycle 0 []) ∧ (inCycle 0 []).loop = .active ∧ (inCycle 0 []).p = 0 ∧
      ∃ t, step (inCycle 0 []) = .next t :=
  ⟨by decide, inv_top, rfl, rfl, (next_of (f := fun _ => true) (by decide)).imp fun _ h => h.1⟩

/-- Each branch: a START, an exit, the wrap of `p`, and a tick out of the cycle; and a run from a top. -/
theorem wit_PositionAdvance :
    (∀ s ∈ [idle [cmd 0b01#2], inCycle 0 [cmd 0b10#2], inCycle 4999 [], exited []],
      s.cfg.Legal ∧ RangesOk s ∧ (curIn s).bench = none ∧ nextIs (step s) (fun _ => true) = true) ∧
    BlockInv (idle [cmd 0b01#2]) ∧ startAccepted (idle [cmd 0b01#2]) ∧
    BlockInv (inCycle 0 []) ∧ (inCycle 0 []).loop = .active ∧ (inCycle 0 []).p = 0 ∧
      ∃ t : State, Sys2Proof.core.run 0 (inCycle 0 []) = .next t ∧ t.loop = .active :=
  ⟨by decide, inv_start, by decide, inv_top, rfl, rfl, _, rfl, rfl⟩

theorem wit_PulseCommandEffects :
    (idle []).lgBusy = false ∧ (inCycle 11 []).lgBusy = true ∧ (idle []).cgBusy = false ∧
      (inCycle 19 []).cgBusy = true := by decide

/-- A tick of the composed block and one of a bench, neither with a command. -/
theorem wit_IdleLinesRestAtIdleLevels :
    (idle []).cfg.Legal ∧ RangesOk (idle []) ∧ TickUops (idle []) [] ∧ TickUops (idle [bench [0x00#8]]) [.uWait] ∧
      (idle []).lgBusy = false ∧ (idle []).cgBusy = false ∧ Instr.uLatch ∉ [Instr.uWait] ∧
      ∃ t, step (idle []) = .next t :=
  ⟨by decide, by decide, .inl ⟨rfl, rfl⟩, .inr ⟨_, rfl, by decide, by decide⟩, rfl, rfl, by decide,
    (next_of (f := fun _ => true) (by decide)).imp fun _ h => h.1⟩

theorem wit_PulseAndTrainLast :
    (idle []).cfg.Legal ∧ (idle []).lgBusy = false ∧ (idle []).cgBusy = false ∧ 11 < (idle []).cfg.latchWidth ∧
      203 < pulseCount .p17 * (idle []).cfg.clkPeriod := by decide

/-- The last tick of the latch pulse and the second of the train. -/
theorem wit_LineLevelsByPosition :
    (BlockInv (inCycle 11 []) ∧ ∃ t, step (inCycle 11 []) = .next t) ∧
    BlockInv (inCycle 19 [line true]) ∧ ∃ t, step (inCycle 19 [line true]) = .next t :=
  ⟨⟨inv_latch_end, (next_of (f := fun _ => true) (by decide)).imp fun _ h => h.1⟩, by constructor <;> decide,
    (next_of (f := fun _ => true) (by decide)).imp fun _ h => h.1⟩

/-- Two ticks over the latch's falling edge. -/
theorem wit_EdgesWithinACycle :
    BlockInv (inCycle 11 []) ∧ ∃ t u, step (inCycle 11 []) = .next t ∧ step t = .next u := by
  refine ⟨inv_latch_end, ?_⟩
  obtain ⟨t, h, ht⟩ := next_of (o := step (inCycle 11 []))
    (f := fun t => nextIs (step t) (fun _ => true)) (by decide)
  obtain ⟨u, hu, -⟩ := next_of ht
  exact ⟨t, u, h, hu⟩

theorem wit_ReadPolicy :
    ∃ a u t, exec (.uSmpa 15) (idle [line true]) = .next a ∧ u.smpA = a.smpA ∧ exec (.uSmpb 15) u = .next t :=
  ⟨_, _, _, rfl, rfl, rfl⟩

/-- A cycle of a held line, whose frame is 0xFFFF. -/
theorem wit_FrameOfACycle :
    BlockInv (inCycle 0 (List.replicate 200 (line true))) ∧
      (inCycle 0 (List.replicate 200 (line true))).loop = .active ∧
      (inCycle 0 (List.replicate 200 (line true))).p = 0 ∧
      (inCycle 0 (List.replicate 200 (line true))).life = .running ∧
      (curIn (inCycle 0 (List.replicate 200 (line true)))).hcmd ≠ 0b10#2 ∧
      PeerHolds (inCycle 0 (List.replicate 200 (line true))) 0xFFFF#16 := by
  refine ⟨?_, rfl, rfl, rfl, by decide, ?_⟩
  · exact ⟨inv_top.legal, inv_top.ranges, fun i hi => by rw [List.eq_of_mem_replicate hi]; rfl, inv_top.waiting,
      inv_top.active, inv_top.exited, inv_top.quiet, inv_top.latchPos, inv_top.latchTicks, inv_top.clockPos,
      inv_top.clockTicks, inv_top.count16, inv_top.sameFrames, inv_top.combClear⟩
  · unfold PeerHolds
    decide

/-- The ticks just before the first read and just after the last. -/
theorem wit_LineIsReadOnlyAtItsPositions :
    ∀ q ∈ [17, 200], (inCycle q []).cfg.Legal ∧ RangesOk (inCycle q []) ∧ (curIn (inCycle q [])).bench = none ∧
      ∀ k < 16, (inCycle q []).p ≠ (inCycle q []).cfg.readA k ∧ (inCycle q []).p ≠ (inCycle q []).cfg.readB k := by
  decide

theorem wit_StuckHighLineHoldsAllOnes :
    Params.default.Legal ∧ Params.default.stableReset = 0xFFFF#16 ∧
      Composed { State.initial Params.default with inputs := [line true] } ∧
      (∀ i ∈ [line true], i.data = some true) ∧ 1 ≤ [line true].length ∧
      ∃ t : State, Sys2Proof.core.run 1 { State.initial Params.default with inputs := [line true] } = .next t := by
  refine ⟨by decide, by decide, by decide, by decide, by decide, ?_⟩
  obtain ⟨t, h, -⟩ := next_of (o := step (idle [line true])) (f := fun _ => true) (by decide)
  exact ⟨t, by rw [run_succ]; exact (congrArg (andThen · (Sys2Proof.core.run 0)) h).trans rfl⟩

theorem wit_AcceptEffect :
    (idle []).voteCtr = 0 ∧ { idle [] with voteCtr := 1 }.voteCtr = 1 ∧
    (aboutToAgree.voteCtr = 2 ∧ aboutToAgree.win0 = aboutToAgree.win1 ∧ aboutToAgree.win1 = aboutToAgree.smpFrame) ∧
    ¬ ({ aboutToAgree with smpFrame := 0x00FE }.win0 = 0x00FF ∧ 0x00FF#16 = 0x00FE#16) := by decide

/-- Frames of which only the third differs (V35), and frames that agree (V33); the sampler, the flags and the line move
on between the calls. -/
theorem wit_VoteOverAWindow :
    ∀ f ∈ [0x00FE#16, 0x00FF#16], ∃ s a u b v c : State, s.voteCtr = 0 ∧ exec .uAccept s = .next a ∧
      u ≠ { a with smpFrame := u.smpFrame } ∧ u.win0 = a.win0 ∧ u.voteCtr = a.voteCtr ∧ u.stable = a.stable ∧
      exec .uAccept u = .next b ∧ v.win0 = b.win0 ∧ v.win1 = b.win1 ∧ v.voteCtr = b.voteCtr ∧ v.stable = b.stable ∧
      exec .uAccept v = .next c ∧ s.smpFrame = 0x00FF ∧ u.smpFrame = 0x00FF ∧ v.smpFrame = f := by
  intro f _
  exact ⟨{ idle [] with smpFrame := 0x00FF }, _,
    { idle [] with smpFrame := 0x00FF, win0 := 0x00FF, voteCtr := 1, tick := 5000 }, _,
    { idle [] with smpFrame := f, win0 := 0x00FF, win1 := 0x00FF, voteCtr := 2, smpA := false, tick := 10000 }, _,
    rfl, rfl, by decide, rfl, rfl, rfl, rfl, rfl, rfl, rfl, rfl, rfl, rfl, rfl, rfl⟩

theorem wit_StableMutatedOnlyByAgreement :
    aboutToAgree.cfg.Legal ∧ RangesOk aboutToAgree ∧ (curIn aboutToAgree).bench = none ∧
      ∃ t, step aboutToAgree = .next t ∧ t.stable ≠ aboutToAgree.stable :=
  ⟨by decide, by decide, rfl, (next_of (f := fun t => decide (t.stable ≠ aboutToAgree.stable)) (by decide)).imp
    fun _ h => ⟨h.1, of_decide_eq_true h.2⟩⟩

theorem wit_StableUpdateRate :
    BlockInv aboutToAgree ∧ 0 < 3 * aboutToAgree.cfg.pollInterval ∧
      ∃ t u : State, step aboutToAgree = .next t ∧ t.stable ≠ aboutToAgree.stable ∧
        Sys2Proof.core.run 0 t = .next u := by
  obtain ⟨t, h, hn⟩ := wit_StableMutatedOnlyByAgreement.2.2.2
  exact ⟨inv_agree, by decide, t, t, h, hn, rfl⟩

theorem wit_SamplerResetValuesAreNeverObserved :
    Params.default.Legal ∧ Composed { State.initial Params.default with inputs := [] } ∧
      (∃ t : State, Sys2Proof.core.run 1 { State.initial Params.default with inputs := [] } = .next t) ∧
      ∃ u : State, Sys2Proof.core.run 1
        (withSampler false 0 0 0 0 { State.initial Params.default with inputs := [] }) = .next u := by
  refine ⟨by decide, by decide, ?_, ?_⟩
  · obtain ⟨t, h, -⟩ := next_of (o := step (idle [])) (f := fun _ => true) (by decide)
    exact ⟨t, by rw [run_succ]; exact (congrArg (andThen · (Sys2Proof.core.run 0)) h).trans rfl⟩
  · obtain ⟨t, h, -⟩ := next_of (o := step (withSampler false 0 0 0 0 (idle []))) (f := fun _ => true) (by decide)
    exact ⟨t, by rw [run_succ]; exact (congrArg (andThen · (Sys2Proof.core.run 0)) h).trans rfl⟩

theorem wit_PortOperationEffects :
    { idle [] with lastEval := true }.lastEval = true ∧ (idle []).lastEval = false ∧
      { idle [] with slots := [⟨true, 0x1FFFE#17⟩] }.slots[0]? = some ⟨true, 0x1FFFE#17⟩ ∧
      (idle []).slots[0]? = some ⟨false, 0x00000#17⟩ ∧ (idle []).slots.length ≤ 1 := by decide

/-- The tick of a write and the tick after it. -/
theorem wit_TakeAndReframeInOneTick :
    ∀ q ∈ [211, 212], (inCycle q []).cfg.Legal ∧ RangesOk (inCycle q []) ∧ (curIn (inCycle q [])).bench = none ∧
      nextIs (step (inCycle q [])) (fun _ => true) = true ∧ (inCycle q []).slots[0]? = some ⟨false, 0x00000#17⟩ := by
  decide

theorem wit_RegisteredOutputs : ∃ t, step aboutToAgree = .next t :=
  (next_of (f := fun _ => true) (by decide)).imp fun _ h => h.1

/-- A third call that agrees; the last tick before the next window closes, and the first with an unchanged `stable`. -/
theorem wit_SlotsFollowStableByOneTick :
    BlockInv aboutToAgree ∧ aboutToAgree.loop = .active ∧ aboutToAgree.p = aboutToAgree.cfg.acceptPos ∧
      aboutToAgree.voteCtr = 2 ∧ 14998 + 2 ≤ 3 * aboutToAgree.cfg.pollInterval ∧
      ∃ t u, step aboutToAgree = .next t ∧ step t = .next u ∧
        ∀ j ≤ 0, ∀ v : State, Sys2Proof.core.run j u = .next v → v.stable = t.stable := by
  obtain ⟨u, hu, hs⟩ := next_of (o := andThen (step aboutToAgree) step) (f := fun u => decide (u.stable = 0x00FF))
    (by decide)
  obtain ⟨t, ht, hv⟩ := next_of (o := step aboutToAgree) (f := fun t => decide (t.stable = 0x00FF)) (by decide)
  rw [ht] at hu
  refine ⟨inv_agree, rfl, rfl, rfl, by decide, t, u, ht, hu, fun j hj v h => ?_⟩
  obtain rfl : j = 0 := by omega
  cases h
  exact (of_decide_eq_true hs).trans (of_decide_eq_true hv).symm

/-- A START from reset, which waits for its first window; cycles 2 and 3 are the two cases. -/
theorem wit_TransmissionCycles :
    BlockInv (idle [cmd 0b01#2]) ∧ startAccepted (idle [cmd 0b01#2]) ∧ (idle [cmd 0b01#2]).voteCtr = 0 ∧
      (∀ i ∈ (idle [cmd 0b01#2]).inputs, i.hcmd ≠ 0b10#2) ∧ 2 % 3 = 2 ∧ 3 % 3 ≠ 2 :=
  ⟨inv_start, by decide, rfl, by decide, by decide, by decide⟩

theorem wit_ColdStart :
    Params.default.Legal ∧ Composed { State.initial Params.default with inputs := [] } ∧
      ∃ t : State, Sys2Proof.core.run 0 { State.initial Params.default with inputs := [] } = .next t ∧
        0 ≤ 1 + 2 * Params.default.pollInterval + Params.default.acceptPos :=
  ⟨by decide, by decide, _, rfl, by decide⟩

theorem wit_WrittenByColumn :
    ∃ s t, exec .uAccept s = .next t ∧ t.stable ≠ s.stable :=
  ⟨aboutToAgree, _, rfl, by decide⟩

theorem wit_ParametersNeverChange :
    (∃ t, step (idle []) = .next t) ∧ ∃ t, exec .uTop (idle []) = .next t :=
  ⟨(next_of (f := fun _ => true) (by decide)).imp fun _ h => h.1, _, rfl⟩

theorem wit_ResetMeetsTheInvariant :
    Params.default.Legal ∧ ∀ i ∈ [cmd 0b01#2], TickIn.bench i = none := by decide

theorem wit_EveryStepKeepsTheInvariant : BlockInv (inCycle 4999 []) ∧ ∃ t, step (inCycle 4999 []) = .next t :=
  ⟨inv_last, (next_of (f := fun _ => true) (by decide)).imp fun _ h => h.1⟩

theorem wit_EveryTickKeepsTheRanges : ∃ t, step (idle [bench [0x40#8]]) = .next t :=
  (next_of (f := fun _ => true) (by decide)).imp fun _ h => h.1

/-- Between both reads of bit 0, where `smp_a` must agree and nothing else of the cycle is written yet; and in a last
call of a window, where only `win[2]` may differ. -/
theorem wit_UnreadSamplerContentsStayHidden :
    (BlockInv (inCycle 19 []) ∧ SamplerAlike (inCycle 19 []) (withSampler true 0 0 0 0 (inCycle 19 [])) ∧
      ∃ t, step (inCycle 19 []) = .next t) ∧
    BlockInv aboutToAgree ∧ SamplerAlike aboutToAgree (withSampler false 0x00FF 0x00FF 0x00FF 0 aboutToAgree) :=
  ⟨⟨by constructor <;> decide, by constructor <;> decide, (next_of (f := fun _ => true) (by decide)).imp fun _ h => h.1⟩,
    inv_agree, by constructor <;> decide⟩

/-- Reset, and the earliest third U_ACCEPT, whose tick is the last one the invariant bounds. -/
theorem wit_EveryStepKeepsTheColdStart :
    (BlockInv (idle []) ∧ ColdStartInv (idle []) ∧ ∃ t, step (idle []) = .next t) ∧
    BlockInv { inCycle 210 [] with voteCtr := 2, tick := 10211 } ∧
      ColdStartInv { inCycle 210 [] with voteCtr := 2, tick := 10211 } :=
  ⟨⟨by constructor <;> decide, ⟨fun _ => rfl, nofun, fun _ => ⟨rfl, rfl⟩, fun _ => by decide⟩,
      (next_of (f := fun _ => true) (by decide)).imp fun _ h => h.1⟩,
    by constructor <;> decide, ⟨nofun, fun _ => ⟨2, by decide, by decide⟩, fun _ => ⟨rfl, rfl⟩, fun _ => by decide⟩⟩

theorem wit_ConstructionMeetsTheColdStart : ∃ s, construct Params.default true = .next s := ⟨_, rfl⟩

end Sys2Proof.Tests
end

section
/-! SUPPORT. O5: the parameter sets outside R13, refused at construction and by every step. -/

namespace Sys2Proof.Machine

/-- What a step answers: it refuses a set outside R13, then a state outside R20 and R41, and runs the tick of any
other state. -/
theorem step_cases (s : State) :
    (¬ s.cfg.Legal ∧ step s = .refused .illegalParameters) ∨
    (s.cfg.Legal ∧ ¬ RangesOk s ∧ step s = .refused .unreachableState) ∨
    (s.cfg.Legal ∧ RangesOk s ∧ step s = tickOnce s) := by
  unfold step checkedTick
  by_cases hc : s.cfg.Legal
  · rw [if_neg (not_not_intro hc)]
    by_cases hr : RangesOk s
    · exact .inr (.inr ⟨hc, hr, if_neg (not_not_intro hr)⟩)
    · exact .inr (.inl ⟨hc, hr, if_pos hr⟩)
  · exact .inl ⟨hc, if_pos hc⟩

/-- R13: every step of a state that carries an illegal set refuses it, whatever else the state holds. -/
theorem step_refuses_illegal {s : State} (h : ¬ s.cfg.Legal) : step s = .refused .illegalParameters := by
  obtain ⟨-, hs⟩ | ⟨hc, -⟩ | ⟨hc, -⟩ := step_cases s
  · exact hs
  · exact absurd hc h
  · exact absurd hc h

/-- R13, R137: construction refuses an illegal set before it looks at `LINES_OK`. -/
theorem construct_refuses_illegal {c : Params} (h : ¬ c.Legal) (ok : Bool) :
    construct c ok = .refused .illegalParameters := by
  obtain ⟨-, hs⟩ | ⟨hc, -⟩ | ⟨hc, -⟩ := construct_cases c ok
  · exact hs
  · exact absurd hc h
  · exact absurd hc h

/-- R137: a legal set whose lines are up gives its initial state. -/
theorem construct_legal {c : Params} (h : c.Legal) : construct c true = .next (State.initial c) := by
  obtain ⟨hn, -⟩ | ⟨-, hf, -⟩ | ⟨-, -, hs⟩ := construct_cases c true
  · exact absurd h hn
  · exact absurd hf (by decide)
  · exact hs

theorem default_legal : Params.default.Legal := by decide

/-- R12: the cycle's work, in the parameters of R8. -/
theorem work_eq (c : Params) : c.work = c.latchWidth + c.latchClockGap + 16 * c.clkPeriod + 2 := rfl

/-- R11: an instance binds a port exactly where its table has an entry. -/
theorem one_le_nPorts_iff (c : Params) : 1 ≤ c.nPorts ↔ c.portBinding ≠ [] := List.length_pos_iff

/-- R13: a set is illegal exactly where it breaks one of the constraints, each written in the parameters themselves. -/
theorem not_legal_iff (c : Params) : ¬ c.Legal ↔
    c.latchWidth = 0 ∨ c.clkLow = 0 ∨ c.clkPeriod ≤ c.clkLow ∨ c.latchClockGap = 0 ∨ c.rereadGap = 0 ∨
      c.clkPeriod ≤ c.sampleOffset + c.rereadGap ∨
      c.pollInterval < c.latchWidth + c.latchClockGap + 16 * c.clkPeriod + 2 ∨ c.portBinding = [] := by
  simp only [Params.Legal, one_le_nPorts_iff, work_eq, not_and_or, not_not, not_le, not_lt, Nat.lt_one_iff]

/-- Settles O5: a set that breaks a constraint is not legal, and `construct` and `step` refuse every such set. -/
theorem illegalParametersAreRefused : Obligations.IllegalParametersAreRefused := by
  unfold Obligations.IllegalParametersAreRefused
  refine ⟨fun c hbreak => ?_, construct_legal default_legal⟩
  have hc : ¬ c.Legal := (not_legal_iff c).mpr hbreak
  exact ⟨construct_refuses_illegal hc, fun s hs => step_refuses_illegal (hs ▸ hc)⟩

end Sys2Proof.Machine
end

section
/-! SUPPORT. R118: a step that answers is the spec's `Step` over the micro-operations of
its tick, the schedule's or a test bench's. -/

namespace Sys2Proof.Machine

open Sys2Proof.Spec

/-! ### The micro-operations of a tick -/

/-- A micro-operation word names a micro-operation, so a list of them decodes to micro-operations alone. -/
theorem uop_format_of_decode {ws : List UopWord} {us : List Instr} (h : ws.map decodeUop = us.map some) :
    ∀ i ∈ us, i.format = .uop := by
  intro i hi
  have hm : some i ∈ ws.map decodeUop := h ▸ List.mem_map_of_mem hi
  obtain ⟨w, -, hw⟩ := List.mem_map.1 hm
  exact decodeUop_format hw

/-- R67, R70: the set of a tick consists of micro-operations, no two for one unit, and is what the UOP words say. -/
theorem tickUops_spec {s : State} {us : List Instr} (hc : s.cfg.Legal) (h : TickUops s us) :
    (∀ i ∈ us, i.format = .uop) ∧ unitClash us = false ∧ decodeWords s.cfg.nPorts (uopWords s) = .ok us := by
  rcases h with ⟨hb, rfl⟩ | ⟨ws, hb, hd, hu⟩
  · refine ⟨?_, ?_, uopWords_composed hb⟩
    · split
      · exact sched_format
      · simp
    · split
      · exact sched_noClash hc s.p
      · rfl
  · exact ⟨uop_format_of_decode hd, hu, uopWords_bench hb hd⟩

/-- R69, R70: a step whose words are not such a set is refused, so a step that answers has one. -/
theorem tickUops_of_tickOnce {s t : State} (h : tickOnce s = .next t) : ∃ us, TickUops s us := by
  cases hb : (curIn s).bench with
  | none => exact ⟨_, .inl ⟨hb, rfl⟩⟩
  | some ws =>
    rcases uopWords_or ws with ⟨us, hd⟩ | hbad
    · refine ⟨us, .inr ⟨ws, hb, hd, ?_⟩⟩
      cases hu : unitClash us with
      | false => rfl
      | true =>
        have := decodeWords_fetch (uopWords_bench hb hd)
        simp [tickOnce, this, unitClash_ports, hu] at h
    · obtain ⟨w, -, -, he⟩ := decodeWords_illegal s.cfg.nPorts ws hbad
      have := decodeWords_fetch_error (s := s) (by simpa only [uopWords, hb] using he)
      simp [tickOnce, this] at h

/-! ### The phases, element by element -/

/-- R114: the micro-operations that are left after phase C. -/
def uopsAfterC (exit : Bool) (us : List Instr) : List Instr := if exit = true then [] else us

/-- The tick's operations of a phase that belongs to the micro-operations are those left after phase C. -/
theorem phaseOps_live (s : State) {us : List Instr} (hu : ∀ i ∈ us, i.format = .uop) (e : Bool) {ph : Phase}
    (hr : ph ≠ .read) (hh : ph ≠ .h) (ht : ph ≠ .t) :
    phaseOps ph (liveOps e (decodeHcmd (curIn s).hcmd :: .readState :: (takeOps s ++ us))) =
      phaseOps ph (uopsAfterC e us) := by
  obtain ⟨-, -, -, hlive, hexit, -⟩ := phaseOps_ports s us hu
  cases e
  · exact hlive ph hr hh ht
  · exact hexit ph hr hh ht

/-- What is left after phase C has at most one operation in each phase. -/
theorem phaseOps_after_le_one {us : List Instr} (hc : unitClash us = false) (hu : ∀ i ∈ us, i.format = .uop)
    (e : Bool) (ph : Phase) : (phaseOps ph (uopsAfterC e us)).length ≤ 1 := by
  cases e
  · exact phaseOps_le_one hc hu ph
  · simp [uopsAfterC, phaseOps]

/-- R119: phase H's effect on `life` is the first table of the lifecycle. -/
theorem lifeTable_eq (l : Life) (w : HcmdWord) :
    (if w = 0b01#2 ∧ l = .idle then .running else if w = 0b10#2 ∧ l = .running then .stopped else l) =
      lifeTable l w := by
  have hw : w = 0 ∨ w = 1 ∨ w = 2 ∨ w = 3 := by revert w; decide
  rcases hw with rfl | rfl | rfl | rfl <;> cases l <;> rfl

/-- Phase T of a tick (R110): one TAKE for each strobe that is 1, port by port. -/
theorem runOps_takeOps (s u : State) (hs : u.slots.length = s.cfg.nPorts)
    (hh : u.out.handed = List.replicate u.slots.length none) :
    runOps (takeOps s) u = .next { u with
      slots := u.slots.mapIdx fun n x =>
        ⟨if takeStrobe (curIn s) n = true ∧ x.valid = true then false else x.valid, x.frame⟩
      out := { u.out with
        handed := u.slots.mapIdx fun n x =>
          if takeStrobe (curIn s) n = true ∧ x.valid = true then some x.frame else none } } := by
  have hmem : ∀ n, n ∈ (List.range s.cfg.nPorts).filter (takeStrobe (curIn s)) ↔
      n < u.slots.length ∧ takeStrobe (curIn s) n = true := by simp [hs]
  obtain ⟨t, hrun, ht, hslots, hlen, hhanded⟩ := runOps_takes _ (List.nodup_range.filter (takeStrobe (curIn s))) u
    (fun n hn => ((hmem n).1 hn).1) (by simp [hh])
  have e1 : t.slots = u.slots.mapIdx fun n x =>
      ⟨if takeStrobe (curIn s) n = true ∧ x.valid = true then false else x.valid, x.frame⟩ := by
    rw [hslots]
    refine List.ext_getElem (by simp) fun n h1 h2 => ?_
    have hn : n < u.slots.length := by simpa using h1
    simp [hmem, hn]
  have e2 : t.out.handed = u.slots.mapIdx fun n x =>
      if takeStrobe (curIn s) n = true ∧ x.valid = true then some x.frame else none := by
    refine List.ext_getElem? fun n => ?_
    by_cases hn : n < u.slots.length
    · rw [hhanded n _ (List.getElem?_eq_getElem hn), hh]
      simp only [hmem, hn, true_and, List.getElem?_mapIdx, List.getElem?_eq_getElem hn, Option.map_some,
        List.getElem?_replicate, if_true]
      split <;> rfl
    · simp [hn, hlen]
  rw [takeOps, hrun, ht, e1, e2]

/-- Phase F (R99), whether or not the tick holds U_ACCEPT. -/
theorem runOps_phaseF_eq {us : List Instr} (hl : (phaseOps .f us).length ≤ 1) (s : State) :
    let accept := decide (.uAccept ∈ us)
    let agree := decide (s.win0 = s.win1 ∧ s.win1 = s.smpFrame)
    runOps (phaseOps .f us) s = .next { s with
      win0 := if accept = true ∧ s.voteCtr = 0 then s.smpFrame else s.win0
      win1 := if accept = true ∧ s.voteCtr = 1 then s.smpFrame else s.win1
      win2 := if accept = true ∧ s.voteCtr = 2 then s.smpFrame else s.win2
      voteCtr := if accept = true then (if s.voteCtr = 2 then 0 else s.voteCtr + 1) else s.voteCtr
      stable := if accept = true ∧ s.voteCtr = 2 ∧ agree = true then s.smpFrame else s.stable
      lastEval := if accept = true then decide (s.voteCtr = 2) else s.lastEval
      lastAgree := if accept = true then decide (s.voteCtr = 2) && agree else s.lastAgree } := by
  rcases runOps_phaseF hl s with ⟨hn, he⟩ | ⟨hm, he⟩
  · rw [he]; simp [hn]
  · rw [he, execUAccept_eq]
    simp [hm, stableNext, voteNext, evalFlag, agreeFlag, framesAgree]

/-- The set of a tick holds a first read where it holds a U_SMPA. -/
theorem any_isSmpa (us : List Instr) : us.any isSmpa = true ↔ ∃ k, .uSmpa k ∈ us := by
  have hi : ∀ i, isSmpa i = true ↔ ∃ k, i = .uSmpa k := by
    intro i; cases i <;> simp [isSmpa]
  simp only [List.any_eq_true, hi]
  exact ⟨fun ⟨_, hm, k, hk⟩ => ⟨k, hk ▸ hm⟩, fun ⟨k, hm⟩ => ⟨_, hm, k, rfl⟩⟩

theorem smpbIndex_eq_some {i : Instr} {k : BitIndex} : smpbIndex i = some k ↔ i = .uSmpb k := by
  cases i <;> simp [smpbIndex]

/-- A set without a U_SMPB writes no bit. -/
theorem findSome?_smpbIndex_none {us : List Instr} (h : ∀ k, .uSmpb k ∉ us) : us.findSome? smpbIndex = none := by
  rw [List.findSome?_eq_none_iff]
  intro i hi
  cases hk : smpbIndex i with
  | none => rfl
  | some k => exact absurd (smpbIndex_eq_some.1 hk ▸ hi) (h k)

/-- A set whose only U_SMPB is that of bit `k` writes bit `k`. -/
theorem findSome?_smpbIndex_some {us : List Instr} {k : BitIndex} (h : ∀ j, .uSmpb j ∈ us ↔ j = k) :
    us.findSome? smpbIndex = some k := by
  cases hf : us.findSome? smpbIndex with
  | none => exact absurd (List.findSome?_eq_none_iff.1 hf _ ((h k).2 rfl)) (by simp [smpbIndex])
  | some j =>
    obtain ⟨i, hi, hj⟩ := List.exists_of_findSome?_eq_some hf
    rw [(h j).1 (smpbIndex_eq_some.1 hj ▸ hi)]

/-- Phase S (R92, R93), whichever read the tick holds, if any. -/
theorem runOps_phaseS_eq {us : List Instr} (hl : (phaseOps .s us).length ≤ 1) (s : State) :
    runOps (phaseOps .s us) s = .next { s with
      smpA := if us.any isSmpa = true then readLine s else s.smpA
      smpFrame :=
        match us.findSome? smpbIndex with
        | some k => setFrameBit s.smpFrame k (s.smpA && readLine s)
        | none => s.smpFrame } := by
  rcases runOps_phaseS hl s with ⟨ha, hb, he⟩ | ⟨k, ha, hb, he⟩ | ⟨k, ha, hb, he⟩
  · simp only [he, any_isSmpa, ha, exists_false, if_false, findSome?_smpbIndex_none hb]
  · simp only [he, any_isSmpa, ha, exists_eq, if_true, findSome?_smpbIndex_none hb]
  · simp only [he, any_isSmpa, ha, exists_false, if_false, findSome?_smpbIndex_some hb]

/-- R85: the counter goes on where the generator stays busy, and is 0 elsewhere. -/
theorem latchTicksNext_eq (w q : Nat) (b : Bool) :
    latchTicksNext w b q = if b = true ∧ q + 1 ≠ w then q + 1 else 0 := by
  unfold latchTicksNext; split_ifs <;> simp_all

/-- R86: as R85. -/
theorem clockTicksNext_eq (w q : Nat) (b : Bool) :
    clockTicksNext w b q = if b = true ∧ q + 1 ≠ w then q + 1 else 0 := latchTicksNext_eq w q b

/-- Phase A (R85, R86, R117), element by element. -/
theorem advance_eq (s : State) :
    let len := pulseCount s.cgN * s.cfg.clkPeriod
    advance s = { s with
      loop :=
        if s.startAcc = true then .active
        else if s.loop = .active ∧ s.exitReq = true then .exited else s.loop
      p :=
        if s.startAcc = true then 0
        else if s.loop = .active ∧ s.exitReq = true then 0
        else if s.loop = .active then (s.p + 1) % s.cfg.pollInterval else 0
      lgBusy := s.lgBusy && decide (s.lgQ + 1 ≠ s.cfg.latchWidth)
      lgQ := if s.lgBusy = true ∧ s.lgQ + 1 ≠ s.cfg.latchWidth then s.lgQ + 1 else 0
      cgBusy := s.cgBusy && decide (s.cgQ + 1 ≠ len)
      cgQ := if s.cgBusy = true ∧ s.cgQ + 1 ≠ len then s.cgQ + 1 else 0
      startAcc := false
      exitReq := false
      inputs := s.inputs.tail
      tick := s.tick + 1 } := by
  simp only [advance, advancePosition_eq, ← latchTicksNext_eq]
  rfl

/-- R111: phase R after phase T: where it writes, the write is what is left of the takes. -/
theorem map_const_mapIdx {α β : Type} (l : List α) (f : Nat → α → β) (b : β) (w : Bool) :
    (if w = true then (l.mapIdx f).map fun _ => b else l.mapIdx f) =
      l.mapIdx fun n x => if w = true then b else f n x := by
  cases w <;> simp [Function.comp_def, List.mapIdx_eq_zipIdx_map]

/-! ### The tick -/

/-- R118: the phases of the model's tick make the spec's `Step`. -/
theorem runTick_eq_tick118 {s : State} {us : List Instr} (hlen : s.slots.length = s.cfg.nPorts)
    (hu : ∀ i ∈ us, i.format = .uop) (hc : unitClash us = false) :
    runTick (decodeHcmd (curIn s).hcmd :: .readState :: (takeOps s ++ us)) s = .next (tick118 us s) := by
  obtain ⟨hread, hhcmd, hC, -, -, hT⟩ := phaseOps_ports s us hu
  have hone := phaseOps_after_le_one hc hu
  unfold runTick
  rw [hread, runOps_single, show exec .readState (beginTick s) = .next (driveState (beginTick s)) from rfl,
    andThen_next, hhcmd, runOps_single, exec_hcmd _ _ rfl, andThen_next, hC,
    runOps_phaseC (phaseOps_le_one hc hu .c) _ rfl, andThen_next]
  simp only [phaseOps_live s hu, ne_eq, reduceCtorEq, not_false_eq_true, lifeTable_eq]
  rw [runOps_phaseP (hone _ _), andThen_next, hT, runOps_takeOps s _ (by exact hlen) (by rfl), andThen_next,
    runOps_phaseR (hone _ _), andThen_next, runOps_phaseF_eq (hone _ _), andThen_next, runOps_phaseS_eq (hone _ _),
    andThen_next, advance_eq]
  simp only [driveLines, map_const_mapIdx]
  rfl

/-- R118: the step of a legal state in range, over the micro-operations of its tick. -/
theorem step_eq_tick118 {s : State} {us : List Instr} (hc : s.cfg.Legal) (hr : RangesOk s) (h : TickUops s us) :
    step s = .next (tick118 us s) := by
  obtain ⟨hu, hclash, hdec⟩ := tickUops_spec hc h
  obtain ⟨hn, -⟩ | ⟨-, hn, -⟩ | ⟨-, -, hs⟩ := step_cases s
  · exact absurd hc hn
  · exact absurd hr hn
  · simp only [hs, tickOnce, decodeWords_fetch hdec, unitClash_ports, hclash, Bool.false_eq_true, if_false]
    obtain ⟨-, -, -, -, -, -, hlen, -⟩ := hr
    exact runTick_eq_tick118 hlen hu hclash

/-- R118, said once: what a step that answers has done, and that it answers wherever it can. -/
theorem step_eq_next_iff {s t : State} :
    step s = .next t ↔ s.cfg.Legal ∧ RangesOk s ∧ ∃ us, TickUops s us ∧ t = tick118 us s := by
  constructor
  · intro h
    obtain ⟨-, hs⟩ | ⟨-, -, hs⟩ | ⟨hc, hr, hs⟩ := step_cases s
    · rw [hs] at h; cases h
    · rw [hs] at h; cases h
    · obtain ⟨us, hus⟩ := tickUops_of_tickOnce (hs ▸ h)
      rw [step_eq_tick118 hc hr hus] at h
      cases h
      exact ⟨hc, hr, us, hus, rfl⟩
  · rintro ⟨hc, hr, us, hus, rfl⟩
    exact step_eq_tick118 hc hr hus

end Sys2Proof.Machine
end

section
/-! SUPPORT. O46: the registered outputs. -/

namespace Sys2Proof.Machine

open Sys2Proof.Spec

/-- Settles O46: the `Step` of R118 drives these outputs from its start-of-tick state, whatever the micro-operations. -/
theorem registeredOutputs : Obligations.RegisteredOutputs := by
  unfold Obligations.RegisteredOutputs
  intro s t h
  obtain ⟨-, -, us, -, rfl⟩ := step_eq_next_iff.1 h
  exact ⟨rfl, rfl, rfl, rfl, rfl⟩

end Sys2Proof.Machine
end

section
/-! SUPPORT. R116, R118: a step of the composed block, by the position of its tick. -/

namespace Sys2Proof.Machine

open Sys2Proof.Spec

/-! ### The elements of the spec's `Step` -/

/-- R114, R118: the micro-operations that phases P to T of the tick work with; none in a tick that exits. -/
def issuedUops (us : List Instr) (s : State) : List Instr :=
  uopsAfterC (decide (.uTop ∈ us ∧ lifeTable s.life (curIn s).hcmd = .stopped)) us

section
variable (us : List Instr) (s : State)

@[simp] theorem tick118_cfg : (tick118 us s).cfg = s.cfg := rfl
@[simp] theorem tick118_life : (tick118 us s).life = lifeTable s.life (curIn s).hcmd := rfl

/-- R117: the loop after the tick. -/
theorem tick118_loop : (tick118 us s).loop =
    if startAccepted s then .active
    else if s.loop = .active ∧ .uTop ∈ us ∧ lifeTable s.life (curIn s).hcmd = .stopped then .exited else s.loop := by
  simp only [tick118, decide_eq_true_eq]

/-- R117: the position after the tick. -/
theorem tick118_p : (tick118 us s).p =
    if startAccepted s then 0
    else if s.loop = .active ∧ .uTop ∈ us ∧ lifeTable s.life (curIn s).hcmd = .stopped then 0
    else if s.loop = .active then (s.p + 1) % s.cfg.pollInterval else 0 := by
  simp only [tick118, decide_eq_true_eq]

/-- R82, R85: the latch generator after the tick. -/
theorem tick118_latch :
    let cmd := decide (.uLatch ∈ issuedUops us s)
    let q := if cmd = true ∧ s.lgBusy = false then 0 else s.lgQ
    (tick118 us s).lgBusy = latchBusyNext s.cfg.latchWidth (s.lgBusy || cmd) q ∧
      (tick118 us s).lgQ = latchTicksNext s.cfg.latchWidth (s.lgBusy || cmd) q := by
  simp only [latchTicksNext_eq, decide_eq_true_eq]
  exact ⟨rfl, rfl⟩

/-- R83, R84, R86: the clock generator after the tick. -/
theorem tick118_clock :
    let cmd := decide (.uClk16 ∈ issuedUops us s ∨ .uClk17 ∈ issuedUops us s)
    let q := if cmd = true ∧ s.cgBusy = false then 0 else s.cgQ
    let len := pulseCount (tick118 us s).cgN * s.cfg.clkPeriod
    (tick118 us s).cgBusy = clockBusyNext len (s.cgBusy || cmd) q ∧
      (tick118 us s).cgQ = clockTicksNext len (s.cgBusy || cmd) q := by
  simp only [clockTicksNext_eq, decide_eq_true_eq]
  exact ⟨rfl, rfl⟩

/-- R83, R84: only a command to an idle generator chooses the pulse count. -/
theorem tick118_cgN : (tick118 us s).cgN =
    if s.cgBusy = false then
      (if .uClk16 ∈ issuedUops us s then .p16 else if .uClk17 ∈ issuedUops us s then .p17 else s.cgN)
    else s.cgN := rfl

/-- R99: `stable` after the tick. -/
theorem tick118_stable : (tick118 us s).stable =
    if .uAccept ∈ issuedUops us s ∧ s.voteCtr = 2 ∧ s.win0 = s.win1 ∧ s.win1 = s.smpFrame then s.smpFrame
    else s.stable := by
  simp only [tick118, issuedUops, uopsAfterC, decide_eq_true_eq]

/-- R106, R110, R111: the slots after the tick. -/
theorem tick118_slots : (tick118 us s).slots = s.slots.mapIdx fun n x =>
    if .uReframe ∈ issuedUops us s ∧ s.lastEval = true then ⟨true, reframe s.stable⟩
    else ⟨if takeStrobe (curIn s) n = true ∧ x.valid = true then false else x.valid, x.frame⟩ := by
  simp only [tick118, issuedUops, uopsAfterC, decide_eq_true_eq, Bool.and_eq_true]

@[simp] theorem tick118_slots_length : (tick118 us s).slots.length = s.slots.length := by
  rw [tick118_slots, List.length_mapIdx]

/-- R106, R110: the tick writes every frame with the same new one, or none: a TAKE changes no frame. -/
theorem tick118_frames : (tick118 us s).slots.map Slot.frame =
    if .uReframe ∈ issuedUops us s ∧ s.lastEval = true then s.slots.map fun _ => reframe s.stable
    else s.slots.map Slot.frame := by
  rw [tick118_slots]
  split
  · exact List.ext_getElem (by simp) fun n _ _ => by simp
  · exact List.ext_getElem (by simp) fun n _ _ => by simp

end

/-! ### The micro-operations of a position -/

theorem uTop_mem_sched {c : Params} {p : Nat} : .uTop ∈ sched c p ↔ p = 0 := by simp [mem_sched, mem_schedWork]
theorem uLatch_mem_sched {c : Params} {p : Nat} : .uLatch ∈ sched c p ↔ p = 0 := by simp [mem_sched, mem_schedWork]
theorem uClk16_mem_sched {c : Params} {p : Nat} : .uClk16 ∈ sched c p ↔ p = c.t0 := by simp [mem_sched, mem_schedWork]
theorem uClk17_notMem_sched {c : Params} {p : Nat} : .uClk17 ∉ sched c p := by simp [mem_sched, mem_schedWork]
theorem uAccept_mem_sched {c : Params} {p : Nat} : .uAccept ∈ sched c p ↔ p = c.acceptPos := by
  simp [mem_sched, mem_schedWork]

/-- R118, phase C: the micro-operations of a tick of the composed block. -/
def composedUops (s : State) : List Instr := if s.loop = .active then sched s.cfg s.p else []

theorem mem_composedUops {s : State} {i : Instr} : i ∈ composedUops s ↔ s.loop = .active ∧ i ∈ sched s.cfg s.p := by
  unfold composedUops; split <;> simp [*]

/-- R114: a tick of the composed block raises `exit` where it exits. -/
theorem exit_composed (s : State) :
    (.uTop ∈ composedUops s ∧ lifeTable s.life (curIn s).hcmd = .stopped) ↔ exitsNow s := by
  rw [mem_composedUops, uTop_mem_sched, and_assoc]

/-- R114, R116: what a tick of the composed block issues: the schedule's set, but for an exit. -/
theorem mem_issued_composed {s : State} {i : Instr} :
    i ∈ issuedUops (composedUops s) s ↔ ¬ exitsNow s ∧ s.loop = .active ∧ i ∈ sched s.cfg s.p := by
  simp only [issuedUops, uopsAfterC, exit_composed, decide_eq_true_eq]
  split <;> simp [*, mem_composedUops]

/-- R118: what a step of the composed block that answers has done. -/
theorem step_composed {s t : State} (hb : (curIn s).bench = none) (h : step s = .next t) :
    t = tick118 (composedUops s) s := by
  obtain ⟨-, -, us, hus, rfl⟩ := step_eq_next_iff.1 h
  rcases hus with ⟨-, rfl⟩ | ⟨ws, hw, -⟩
  · rfl
  · rw [hb] at hw; cases hw

end Sys2Proof.Machine
end

section
/-! SUPPORT. O40: what mutates `stable`. -/

namespace Sys2Proof.Machine

open Sys2Proof.Spec

/-- Settles O40: only a closing U_ACCEPT of three equal frames writes `stable`, and the schedule issues it at the ACCEPT
position alone. -/
theorem stableMutatedOnlyByAgreement : Obligations.StableMutatedOnlyByAgreement := by
  unfold Obligations.StableMutatedOnlyByAgreement
  intro s t _ _ hb h hne
  rw [step_composed hb h, tick118_stable] at hne ⊢
  by_cases hw : .uAccept ∈ issuedUops (composedUops s) s ∧ s.voteCtr = 2 ∧ s.win0 = s.win1 ∧ s.win1 = s.smpFrame
  · obtain ⟨hacc, hvote, h01, h1f⟩ := id hw
    obtain ⟨-, hact, hsched⟩ := mem_issued_composed.1 hacc
    exact ⟨hact, uAccept_mem_sched.1 hsched, hvote, h01, h1f, if_pos hw⟩
  · exact absurd (if_neg hw) hne

end Sys2Proof.Machine
end

section
/-! SUPPORT. O53: the invariant of the composed block, kept by every step. -/

namespace Sys2Proof.Machine

open Sys2Proof.Spec

/-! ### The ranges of R20 and R41 -/

/-- Every slot's frame after a tick is one it had, or the frame of the tick's U_REFRAME, which is then every slot's. -/
theorem frame_of_tick118 (us : List Instr) (s : State) :
    (∀ x ∈ (tick118 us s).slots, x.frame = reframe s.stable) ∨
      ∀ x ∈ (tick118 us s).slots, ∃ y ∈ s.slots, y.frame = x.frame := by
  have hmem : ∀ x ∈ (tick118 us s).slots, x.frame ∈ (tick118 us s).slots.map Slot.frame :=
    fun x hx => List.mem_map_of_mem hx
  rw [tick118_frames] at hmem
  split at hmem
  · left
    intro x hx
    obtain ⟨-, -, hf⟩ := List.mem_map.1 (hmem x hx)
    exact hf.symm
  · exact .inr fun x hx => List.mem_map.1 (hmem x hx)

/-- R41: a tick of any kind leaves every element in its range. -/
theorem rangesOk_tick118 {us : List Instr} {s : State} (hc : s.cfg.Legal) (hr : RangesOk s) :
    RangesOk (tick118 us s) := by
  obtain ⟨hp, hp0, hlq, -, hcq, hcq0, hlen, hbit⟩ := hr
  have hpoll : 0 < s.cfg.pollInterval := by omega
  have hperiod : 0 < s.cfg.clkPeriod := Nat.zero_lt_of_lt hc.2.2.1
  have hlatch : (tick118 us s).lgQ < s.cfg.latchWidth ∧
      ((tick118 us s).lgBusy = false → (tick118 us s).lgQ = 0) := by
    obtain ⟨hlb, hlt⟩ := tick118_latch us s
    rw [hlb, hlt]
    exact latchTicksNext_range (by split <;> omega)
  have hclock : (tick118 us s).cgQ < pulseCount (tick118 us s).cgN * s.cfg.clkPeriod ∧
      ((tick118 us s).cgBusy = false → (tick118 us s).cgQ = 0) := by
    obtain ⟨hcb, hct⟩ := tick118_clock us s
    rw [hcb, hct]
    refine clockTicksNext_range ?_
    cases hb : s.cgBusy with
    | false => simpa [hcq0 hb] using ⟨pulseCount_pos _, hperiod⟩
    | true => simpa [tick118_cgN, hb] using hcq
  refine ⟨?_, ?_, ?_, ?_, ?_, ?_, ?_, ?_⟩
  · rw [tick118_p, tick118_cfg]
    split_ifs
    · exact hpoll
    · exact hpoll
    · exact Nat.mod_lt _ hpoll
    · exact hpoll
  · rw [tick118_loop, tick118_p]
    split_ifs <;> simp_all
  · exact hlatch.1
  · exact hlatch.2
  · exact hclock.1
  · exact hclock.2
  · rw [tick118_slots_length, hlen, tick118_cfg]
  · rcases frame_of_tick118 us s with hw | hk
    · intro x hx
      rw [hw x hx, reframe_getLsbD_zero]
    · intro x hx
      obtain ⟨y, hy, hf⟩ := hk x hx
      exact hf ▸ hbit y hy

/-- R42: one frame for every port, after a tick too. -/
theorem sameFrames_tick118 {us : List Instr} {s : State} (h : ∀ a ∈ s.slots, ∀ b ∈ s.slots, a.frame = b.frame) :
    ∀ a ∈ (tick118 us s).slots, ∀ b ∈ (tick118 us s).slots, a.frame = b.frame := by
  intro a ha b hb
  rcases frame_of_tick118 us s with hw | hk
  · rw [hw a ha, hw b hb]
  · obtain ⟨x, hx, hxa⟩ := hk a ha
    obtain ⟨y, hy, hyb⟩ := hk b hb
    rw [← hxa, ← hyb, h x hx y hy]

/-! ### A generator's waveform -/

/-- R87: at position `p` a generator whose command stands at position `start` and whose waveform is `len` ticks long is
busy exactly within the waveform, and its counter says how far the waveform has come. -/
def WaveAt (start len p : Nat) (busy : Bool) (q : Nat) : Prop :=
  (busy = true ↔ start < p ∧ p < start + len) ∧ (busy = true → q + start = p)

/-- R85, R86: a generator that gets its command at `start` and nowhere else keeps to its waveform through one tick of a
cycle, the last one included. Both generators advance by
one definition, the latch generator's. -/
theorem WaveAt.next {start len p poll q : Nat} {busy cmd : Bool} (h : WaveAt start len p busy q) (hlen : 1 ≤ len)
    (hfit : start + len < poll) (hp : p < poll) (hcmd : cmd = true ↔ p = start) :
    WaveAt start len ((p + 1) % poll) (latchBusyNext len (busy || cmd) (if cmd = true ∧ busy = false then 0 else q))
      (latchTicksNext len (busy || cmd) (if cmd = true ∧ busy = false then 0 else q)) := by
  obtain ⟨hbusy, hq⟩ := h
  unfold latchBusyNext latchTicksNext
  cases busy with
  | true =>
    have hin := hbusy.1 rfl
    have hqp := hq rfl
    have hmod : (p + 1) % poll = p + 1 := Nat.mod_eq_of_lt (by omega)
    by_cases hlast : q + 1 = len
    · simp [WaveAt, hmod, hlast]; omega
    · simp [WaveAt, hmod, hlast]; omega
  | false =>
    have hout : ¬ (start < p ∧ p < start + len) := fun hin => by simpa using hbusy.2 hin
    cases cmd with
    | true =>
      have hstart := hcmd.1 rfl
      have hmod : (p + 1) % poll = p + 1 := Nat.mod_eq_of_lt (by omega)
      by_cases hone : 1 = len
      · simp [WaveAt, hmod, ← hone]
      · simp [WaveAt, hmod, hone]; omega
    | false =>
      have hstart : p ≠ start := fun he => by simpa using hcmd.2 he
      rcases Nat.lt_or_ge (p + 1) poll with hlt | hge
      · simp [WaveAt, Nat.mod_eq_of_lt hlt]; omega
      · simp [WaveAt, show p + 1 = poll by omega]

/-- An idle generator at a cycle top is in its waveform's place. -/
theorem WaveAt.of_idle {start len q : Nat} {busy : Bool} (h : busy = false) : WaveAt start len 0 busy q := by
  simp [WaveAt, h]

/-- The waveform clauses of the invariant, generator by generator: the latch pulse from the top on, and the 16 pulses
from `T0` on. -/
theorem BlockInv.waves {s : State} (h : BlockInv s) (ha : s.loop = .active) :
    WaveAt 0 s.cfg.latchWidth s.p s.lgBusy s.lgQ ∧
      WaveAt s.cfg.t0 (pulseCount s.cgN * s.cfg.clkPeriod) s.p s.cgBusy s.cgQ := by
  refine ⟨⟨?_, h.latchTicks⟩, ?_, h.clockTicks⟩
  · rw [Nat.zero_add]; exact h.latchPos ha
  · rw [h.count16]; exact h.clockPos ha

/-- In a cycle of a legal parameter set both waveforms end before the cycle does. -/
theorem waves_fit {c : Params} (hc : c.Legal) :
    1 ≤ c.latchWidth ∧ 0 + c.latchWidth < c.pollInterval ∧ 1 ≤ pulseCount .p16 * c.clkPeriod ∧
      c.t0 + pulseCount .p16 * c.clkPeriod < c.pollInterval := by
  have hpos := positions_order hc
  have hperiod : c.acceptPos = c.t0 + pulseCount .p16 * c.clkPeriod := rfl
  have hlatch : 1 ≤ c.latchWidth := hc.1
  omega

/-! ### The loop and the lifecycle in a tick of the composed block -/

/-- R112, R113: the lifecycle only moves forward, out of IDLE only by START, and STOPPED is never left (R119). -/
theorem lifeTable_facts (l : Life) (w : HcmdWord) :
    (l = .idle → w ≠ 0b01#2 → lifeTable l w = .idle) ∧ (l = .idle → w = 0b01#2 → lifeTable l w = .running) ∧
      (l ≠ .idle → lifeTable l w ≠ .idle) ∧ (l = .stopped → lifeTable l w = .stopped) := by
  have hw : w = 0 ∨ w = 1 ∨ w = 2 ∨ w = 3 := by revert w; decide
  rcases hw with rfl | rfl | rfl | rfl <;> cases l <;> decide

/-- R117, R119: a tick of the composed block exits, goes on in its cycle, or runs outside a cycle, where it may start
one. -/
theorem loop_cases_composed {s : State} (h : BlockInv s) :
    (exitsNow s ∧ (tick118 (composedUops s) s).loop = .exited ∧ (tick118 (composedUops s) s).p = 0) ∨
    (s.loop = .active ∧ ¬ exitsNow s ∧ (tick118 (composedUops s) s).loop = .active ∧
      (tick118 (composedUops s) s).p = (s.p + 1) % s.cfg.pollInterval) ∨
    (s.loop ≠ .active ∧ (tick118 (composedUops s) s).loop = (if startAccepted s then .active else s.loop) ∧
      (tick118 (composedUops s) s).p = 0) := by
  simp only [tick118_loop, tick118_p, exit_composed]
  by_cases ha : s.loop = .active
  · have hs : ¬ startAccepted s := fun hs => h.active ha hs.2
    by_cases he : exitsNow s
    · exact .inl ⟨he, by rw [if_neg hs, if_pos ⟨ha, he⟩], by rw [if_neg hs, if_pos ⟨ha, he⟩]⟩
    · exact .inr (.inl ⟨ha, he, by simp [hs, he, ha], by simp [hs, he, ha]⟩)
  · exact .inr (.inr ⟨ha, by simp [ha], by simp [ha]⟩)

/-- R42, first three lines: the loop and the lifecycle fit together after a tick too. -/
theorem lifecycle_tick118 {s : State} (h : BlockInv s) :
    ((tick118 (composedUops s) s).loop = .waiting → (tick118 (composedUops s) s).life = .idle) ∧
    ((tick118 (composedUops s) s).loop = .active → (tick118 (composedUops s) s).life ≠ .idle) ∧
    ((tick118 (composedUops s) s).loop = .exited → (tick118 (composedUops s) s).life = .stopped) := by
  rw [tick118_life]
  obtain ⟨hidle, hrun, hleft, hstop⟩ := lifeTable_facts s.life (curIn s).hcmd
  obtain ⟨he, hl, -⟩ | ⟨ha, -, hl, -⟩ | ⟨ha, hl, -⟩ := loop_cases_composed h
  · rw [hl]; exact ⟨nofun, nofun, fun _ => he.2.2⟩
  · rw [hl]; exact ⟨nofun, fun _ => hleft (h.active ha), nofun⟩
  · rw [hl]
    by_cases hs : startAccepted s
    · rw [if_pos hs, hrun hs.2 hs.1]; exact ⟨nofun, nofun, nofun⟩
    · rw [if_neg hs]
      exact ⟨fun hw => hidle (h.waiting hw) fun hcmd => hs ⟨hcmd, h.waiting hw⟩, fun h' => absurd h' ha,
        fun hx => hstop (h.exited hx)⟩

/-! ### The generators in a tick of the composed block -/

/-- R89: the composed block never issues U_CLK17. -/
theorem uClk17_notMem_issued {s : State} : .uClk17 ∉ issuedUops (composedUops s) s :=
  fun hm => uClk17_notMem_sched (mem_issued_composed.1 hm).2.2

/-- R89: so the count stays 16. -/
theorem count16_tick118 {s : State} (h : s.cgN = .p16) : (tick118 (composedUops s) s).cgN = .p16 := by
  rw [tick118_cgN, if_neg uClk17_notMem_issued, h]
  split_ifs <;> rfl

/-- Idle generators that get no command stay idle. -/
theorem idle_tick118 {us : List Instr} {s : State} (hus : ∀ i, i ∉ issuedUops us s) (hl : s.lgBusy = false)
    (hc : s.cgBusy = false) : (tick118 us s).lgBusy = false ∧ (tick118 us s).cgBusy = false := by
  rw [(tick118_latch us s).1, (tick118_clock us s).1]
  simp [hus, hl, hc, latchBusyNext, clockBusyNext]

/-- R87: a tick that goes on in its cycle takes both waveforms one tick on. -/
theorem waves_tick118 {s : State} (h : BlockInv s) (ha : s.loop = .active) (he : ¬ exitsNow s) :
    let t := tick118 (composedUops s) s
    WaveAt 0 s.cfg.latchWidth ((s.p + 1) % s.cfg.pollInterval) t.lgBusy t.lgQ ∧
      WaveAt s.cfg.t0 (pulseCount t.cgN * s.cfg.clkPeriod) ((s.p + 1) % s.cfg.pollInterval) t.cgBusy t.cgQ := by
  obtain ⟨hlatch, hclock⟩ := h.waves ha
  obtain ⟨hlw, hlfit, hcw, hcfit⟩ := waves_fit h.legal
  obtain ⟨hlb, hlt⟩ := tick118_latch (composedUops s) s
  obtain ⟨hcb, hct⟩ := tick118_clock (composedUops s) s
  have hp : s.p < s.cfg.pollInterval := h.ranges.1
  intro t
  constructor
  · rw [hlb, hlt]
    exact hlatch.next hlw hlfit hp (by simp [mem_issued_composed, he, ha, uLatch_mem_sched])
  · rw [hcb, hct, count16_tick118 h.count16]
    rw [h.count16] at hclock
    exact hclock.next hcw hcfit hp
      (by simp [mem_issued_composed, he, ha, uClk16_mem_sched, uClk17_notMem_sched])

/-- R42, R87: after a tick the generators rest outside a cycle, and are in their waveforms' places within one. -/
theorem generators_tick118 {s : State} (h : BlockInv s) :
    let t := tick118 (composedUops s) s
    (t.loop ≠ .active → t.lgBusy = false ∧ t.cgBusy = false) ∧
    (t.loop = .active → WaveAt 0 s.cfg.latchWidth t.p t.lgBusy t.lgQ ∧
      WaveAt s.cfg.t0 (pulseCount t.cgN * s.cfg.clkPeriod) t.p t.cgBusy t.cgQ) := by
  intro t
  obtain ⟨he, hl, hp⟩ | ⟨ha, he, hl, hp⟩ | ⟨ha, hl, hp⟩ := loop_cases_composed h
  · obtain ⟨ha, htop, -⟩ := id he
    obtain ⟨⟨hlatch, -⟩, ⟨hclock, -⟩⟩ := h.waves ha
    have hidle := idle_tick118 (us := composedUops s) (fun i hi => (mem_issued_composed.1 hi).1 he)
      (by simpa [htop] using hlatch) (by simpa [htop] using hclock)
    exact ⟨fun _ => hidle, fun hact => absurd (hl.symm.trans hact) nofun⟩
  · exact ⟨fun hn => absurd hl hn, fun _ => hp ▸ waves_tick118 h ha he⟩
  · obtain ⟨hlg, hcg⟩ := h.quiet ha
    have hidle := idle_tick118 (us := composedUops s) (fun i hi => ha (mem_issued_composed.1 hi).2.1) hlg hcg
    exact ⟨fun _ => hidle, fun _ => by
      rw [show t.p = 0 from hp]
      exact ⟨.of_idle hidle.1, .of_idle hidle.2⟩⟩

/-- The tick of a composed block is composed, and so is what is left of its inputs. -/
theorem curIn_bench_of_composed {s : State} (h : Composed s) : (curIn s).bench = none := by
  unfold curIn
  cases hi : s.inputs with
  | nil => rfl
  | cons i is => exact h i (by simp [hi])

/-- The spec's `Step` keeps the invariant of the composed block. -/
theorem blockInv_tick118 {s : State} (h : BlockInv s) : BlockInv (tick118 (composedUops s) s) := by
  obtain ⟨hwaiting, hactive, hexited⟩ := lifecycle_tick118 h
  obtain ⟨hquiet, hwaves⟩ := generators_tick118 h
  have hcount := count16_tick118 h.count16
  have hbusy : (tick118 (composedUops s) s).lgBusy = true ∨ (tick118 (composedUops s) s).cgBusy = true →
      (tick118 (composedUops s) s).loop = .active := by
    intro hb
    by_contra hn
    obtain ⟨hl, hc⟩ := hquiet hn
    simp [hl, hc] at hb
  exact {
    legal := h.legal
    ranges := rangesOk_tick118 h.legal h.ranges
    composed := fun i hi => h.composed i (List.mem_of_mem_tail hi)
    waiting := hwaiting
    active := hactive
    exited := hexited
    quiet := hquiet
    latchPos := fun ha => by simpa using (hwaves ha).1.1
    latchTicks := fun hb => (hwaves (hbusy (.inl hb))).1.2 hb
    clockPos := fun ha => by rw [hcount] at hwaves; exact (hwaves ha).2.1
    clockTicks := fun hb => (hwaves (hbusy (.inr hb))).2.2 hb
    count16 := hcount
    sameFrames := sameFrames_tick118 h.sameFrames
    combClear := ⟨rfl, rfl⟩ }

/-- Settles O53: a step of a composed block is the spec's `Step`, which keeps each clause of the invariant. -/
theorem everyStepKeepsTheInvariant : Obligations.EveryStepKeepsTheInvariant := by
  unfold Obligations.EveryStepKeepsTheInvariant
  intro s t h hstep
  rw [step_composed (curIn_bench_of_composed h.composed) hstep]
  exact blockInv_tick118 h

end Sys2Proof.Machine
end

section
/-! SUPPORT. O25: the micro-operations of one tick. -/

namespace Sys2Proof.Machine

open Sys2Proof.Spec

/-- R70: a position of a legal parameter set issues two micro-operations at a top and at `T0 = A(0)`, else one. -/
theorem sched_length_le_two {c : Params} (hc : c.Legal) (p : Nat) : (sched c p).length ≤ 2 := by
  rcases sched_cases hc p with ⟨-, h⟩ | ⟨-, -, h⟩ | ⟨-, -, h⟩ | ⟨k, -, -, -, h⟩ | ⟨k, -, -, h⟩ | ⟨-, h⟩ | ⟨-, h⟩ |
    ⟨-, -, -, -, -, h⟩ <;> rw [h] <;> simp

/-- R82, R87: `latch_out` during the tick. -/
theorem tick118_latchOut (us : List Instr) (s : State) :
    (tick118 us s).out.latchOut = (s.lgBusy || decide (.uLatch ∈ issuedUops us s)) := rfl

/-- R42, R87: the latch generator is idle at every top. -/
theorem BlockInv.lgBusy_top {s : State} (h : BlockInv s) (ha : s.loop = .active) (hp : s.p = 0) : s.lgBusy = false := by
  have hb : ¬ s.lgBusy = true := fun hb => by have := (h.latchPos ha).1 hb; omega
  simpa using hb

/-- R114, R116: a top issues U_LATCH unless its U_TOP finds `life = STOPPED`. -/
theorem uLatch_mem_issued_top {s : State} (ha : s.loop = .active) (hp : s.p = 0) :
    .uLatch ∈ issuedUops (composedUops s) s ↔ lifeTable s.life (curIn s).hcmd ≠ .stopped := by
  simp [mem_issued_composed, uLatch_mem_sched, exitsNow, ha, hp]

/-- Settles O25: the cases of R116 give the bounds; at a top the idle latch line shows whether U_LATCH was issued. -/
theorem scheduleNeverClashes : Obligations.ScheduleNeverClashes := by
  unfold Obligations.ScheduleNeverClashes
  refine ⟨fun c p hc => ⟨sched_noClash hc p, sched_length_le_two hc p⟩, fun s t h ha hp hstep => ?_⟩
  rw [step_composed (curIn_bench_of_composed h.composed) hstep, tick118_latchOut, h.lgBusy_top ha hp, Bool.false_or]
  exact decide_eq_decide.2 (uLatch_mem_issued_top ha hp)

end Sys2Proof.Machine
end

section
/-! SUPPORT. O26: the words of the default schedule. -/

namespace Sys2Proof.Machine

/-! ### The positions of R12 with the default parameters -/

theorem default_t0 : Params.default.t0 = 18 := rfl
theorem default_readA (k : Nat) : Params.default.readA k = 18 + k * 12 := rfl
theorem default_readB (k : Nat) : Params.default.readB k = 19 + k * 12 := Nat.add_right_comm 18 (k * 12) 1
theorem default_acceptPos : Params.default.acceptPos = 210 := rfl
theorem default_reframePos : Params.default.reframePos = 211 := rfl

/-- R68: the words of the two reads of bit `k`, with the index in the low half. -/
theorem encode_read {k : Nat} (hk : k < 16) :
    encode (.uSmpa (BitVec.ofNat 4 k)) = .uop (0x50#8 ||| BitVec.ofNat 8 k) ∧
      encode (.uSmpb (BitVec.ofNat 4 k)) = .uop (0x60#8 ||| BitVec.ofNat 8 k) := by
  revert k; decide

/-- Settles O26: each line of R75's listing is a case of R116, at the default positions. -/
theorem defaultScheduleWords : Obligations.DefaultScheduleWords := by
  unfold Obligations.DefaultScheduleWords
  intro p _
  have hcases := sched_cases default_legal p
  simp only [default_t0, default_readA, default_readB, default_acceptPos, default_reframePos] at hcases
  obtain ⟨rfl, h⟩ | ⟨rfl, -, h⟩ | ⟨rfl, hread, -⟩ | ⟨k, hk, rfl, hne, h⟩ | ⟨k, hk, rfl, h⟩ | ⟨rfl, h⟩ | ⟨rfl, h⟩ |
    ⟨h0, ht, hread, hacc, href, h⟩ := hcases
  · rw [h]; rfl
  · rw [h]; rfl
  · exact absurd rfl (hread 0 (by decide))
  · rw [h, if_neg (by omega), if_neg hne, if_pos (by omega), show (18 + k * 12 - 18) / 12 = k by omega]
    exact congrArg (fun w => [w]) (encode_read hk).1
  · rw [h, if_neg (by omega), if_neg (by omega), if_neg (by omega), if_pos (by omega),
      show (19 + k * 12 - 19) / 12 = k by omega]
    exact congrArg (fun w => [w]) (encode_read hk).2
  · rw [h]; rfl
  · rw [h]; rfl
  · have hA : ¬ (18 < p ∧ p ≤ 198 ∧ (p - 18) % 12 = 0) := fun _ => (hread ((p - 18) / 12) (by omega)).1 (by omega)
    have hB : ¬ (19 ≤ p ∧ p ≤ 199 ∧ (p - 19) % 12 = 0) := fun _ => (hread ((p - 19) / 12) (by omega)).2 (by omega)
    rw [h, if_neg h0, if_neg ht, if_neg hA, if_neg hB, if_neg hacc, if_neg href]
    rfl

end Sys2Proof.Machine
end

section
/-! SUPPORT. O32: the levels of the two lines by the cycle position, and the edges between two ticks. -/

namespace Sys2Proof.Machine

open Sys2Proof.Spec

/-! ### The levels in a tick -/

/-- R42, R87: the latch generator is busy within its pulse and nowhere else. -/
theorem BlockInv.lgBusy_iff {s : State} (h : BlockInv s) :
    s.lgBusy = true ↔ s.loop = .active ∧ 0 < s.p ∧ s.p < s.cfg.latchWidth := by
  by_cases ha : s.loop = .active
  · rw [h.latchPos ha, and_iff_right ha]
  · simp [h.quiet ha, ha]

/-- R42, R87: the clock generator is busy within its train and nowhere else. -/
theorem BlockInv.cgBusy_iff {s : State} (h : BlockInv s) :
    s.cgBusy = true ↔ s.loop = .active ∧ s.cfg.t0 < s.p ∧ s.p < s.cfg.acceptPos := by
  by_cases ha : s.loop = .active
  · rw [h.clockPos ha, and_iff_right ha]
  · simp [h.quiet ha, ha]

/-- R81, R87: the latch line is high in the first `LATCH_WIDTH` ticks of a cycle, and low where the loop exits. -/
theorem latchOut_tick118 {s : State} (h : BlockInv s) : (tick118 (composedUops s) s).out.latchOut = true ↔
    s.loop = .active ∧ s.p < s.cfg.latchWidth ∧ ¬ exitsNow s := by
  have hw : 1 ≤ s.cfg.latchWidth := h.legal.1
  have htop : exitsNow s → s.p = 0 := fun he => he.2.1
  rw [tick118_latchOut, Bool.or_eq_true, decide_eq_true_iff, h.lgBusy_iff, mem_issued_composed, uLatch_mem_sched]
  constructor
  · rintro (⟨ha, hp, hlt⟩ | ⟨he, ha, hp⟩)
    · exact ⟨ha, hlt, fun he => by have := htop he; omega⟩
    · exact ⟨ha, by omega, he⟩
  · rintro ⟨ha, hlt, he⟩
    rcases Nat.eq_zero_or_pos s.p with hp | hp
    · exact .inr ⟨he, ha, hp⟩
    · exact .inl ⟨ha, hp, hlt⟩

/-- R81: `clock_out` during the tick. -/
theorem tick118_clockOut (us : List Instr) (s : State) :
    let cmd := decide (.uClk16 ∈ issuedUops us s ∨ .uClk17 ∈ issuedUops us s)
    (tick118 us s).out.clockOut =
      clockLevel s.cfg (s.cgBusy || cmd) (if cmd = true ∧ s.cgBusy = false then 0 else s.cgQ) := by
  simp only [decide_eq_true_eq]
  rfl

/-- R116: the train's command stands at `T0` of a cycle; no exit removes it, since `T0` is no top. -/
theorem clockCmd_composed {s : State} (h : BlockInv s) :
    (.uClk16 ∈ issuedUops (composedUops s) s ∨ .uClk17 ∈ issuedUops (composedUops s) s) ↔
      s.loop = .active ∧ s.p = s.cfg.t0 := by
  have ht : 2 ≤ s.cfg.t0 := (positions_order h.legal).1
  have he : s.p = s.cfg.t0 → ¬ exitsNow s := fun hp he => by have := he.2.1; omega
  rw [or_iff_left uClk17_notMem_issued, mem_issued_composed, uClk16_mem_sched]
  exact ⟨fun ⟨_, ha, hp⟩ => ⟨ha, hp⟩, fun ⟨ha, hp⟩ => ⟨he hp, ha, hp⟩⟩

/-- R81, R87: the clock line is low in the low part of each of the 16 pulses, and high elsewhere. -/
theorem clockOut_tick118 {s : State} (h : BlockInv s) :
    (tick118 (composedUops s) s).out.clockOut = false ↔ clockLowNow s := by
  have htrain := (positions_order h.legal).2.2.1
  have hcmd := clockCmd_composed h
  rw [tick118_clockOut]
  cases hb : s.cgBusy with
  | true =>
    obtain ⟨ha, hlo, hhi⟩ := h.cgBusy_iff.1 hb
    have hq : s.p - s.cfg.t0 = s.cgQ := by have := h.clockTicks hb; omega
    simp [clockLevel, clockLowNow, ha, hlo.le, hhi, hq]
  | false =>
    have hout := fun hin => Bool.false_ne_true (hb.symm.trans (h.cgBusy_iff.2 hin))
    by_cases hc : s.loop = .active ∧ s.p = s.cfg.t0
    · simp [clockLevel, clockLowNow, hcmd, hc, htrain]
    · have hlow : ¬ clockLowNow s := fun ⟨ha, hlo, hhi, _⟩ =>
        hout ⟨ha, lt_of_le_of_ne hlo fun he => hc ⟨ha, he.symm⟩, hhi⟩
      simp [clockLevel, hcmd, hc, hlow]

/-! ### The levels in the tick before -/

/-- R117: a position past the top comes from the one before it, in a tick that goes on in its cycle; each such tick but
the cycle's last leads there. -/
theorem position_succ_iff {s : State} (h : BlockInv s) {n : Nat} (hn : n + 1 < s.cfg.pollInterval) :
    (tick118 (composedUops s) s).loop = .active ∧ (tick118 (composedUops s) s).p = n + 1 ↔
      s.loop = .active ∧ ¬ exitsNow s ∧ s.p = n := by
  have hp : s.p < s.cfg.pollInterval := h.ranges.1
  obtain ⟨he, hl, hpos⟩ | ⟨ha, he, hl, hpos⟩ | ⟨ha, -, hpos⟩ := loop_cases_composed h
  · simp [he, hl]
  · have hmod : (s.p + 1) % s.cfg.pollInterval = n + 1 ↔ s.p = n := by
      rcases Nat.lt_or_ge (s.p + 1) s.cfg.pollInterval with hlt | hge
      · rw [Nat.mod_eq_of_lt hlt]; omega
      · rw [show s.p + 1 = s.cfg.pollInterval by omega, Nat.mod_self]; omega
    simp [ha, he, hl, hpos, hmod]
  · simp [ha, hpos]

/-- R87: the latch line was high in the tick before a position `1..LATCH_WIDTH`. -/
theorem latchOut_before {s t : State} (h : BlockInv s) (hstep : step s = .next t) :
    t.out.latchOut = true ↔ t.loop = .active ∧ 0 < t.p ∧ t.p ≤ t.cfg.latchWidth := by
  have hfit := (waves_fit h.legal).2.1
  rw [step_composed (curIn_bench_of_composed h.composed) hstep, latchOut_tick118 h, tick118_cfg]
  constructor
  · rintro ⟨ha, hlt, he⟩
    obtain ⟨hl, hp⟩ := (position_succ_iff h (by omega)).2 ⟨ha, he, rfl⟩
    exact ⟨hl, by omega, by omega⟩
  · rintro ⟨hl, h0, hle⟩
    obtain ⟨ha, he, hp⟩ := (position_succ_iff h (n := (tick118 (composedUops s) s).p - 1) (by omega)).1
      ⟨hl, by omega⟩
    exact ⟨ha, by omega, he⟩

/-- R87: at the position `p` of a cycle the clock line is low. -/
def ClockLowAt (c : Params) (p : Nat) : Prop :=
  c.t0 ≤ p ∧ p < c.acceptPos ∧ (p - c.t0) % c.clkPeriod < c.clkLow

theorem clockLowNow_iff (s : State) : clockLowNow s ↔ s.loop = .active ∧ ClockLowAt s.cfg s.p := Iff.rfl

/-- R87: the clock line was low in the tick before a position exactly where the position before it is low. -/
theorem clockOut_before {s t : State} (h : BlockInv s) (hstep : step s = .next t) :
    t.out.clockOut = false ↔ t.loop = .active ∧ ClockLowAt t.cfg (t.p - 1) := by
  obtain ⟨ht, -, -, hpa, hpr⟩ := positions_order h.legal
  rw [step_composed (curIn_bench_of_composed h.composed) hstep, clockOut_tick118 h, clockLowNow_iff,
    tick118_cfg]
  constructor
  · rintro ⟨ha, hlow⟩
    obtain ⟨hlo, hhi, -⟩ := id hlow
    obtain ⟨hl, hp⟩ := (position_succ_iff h (by omega)).2 ⟨ha, fun he => by have := he.2.1; omega, rfl⟩
    exact ⟨hl, by rwa [hp]⟩
  · rintro ⟨hl, hlow⟩
    obtain ⟨hlo, hhi, -⟩ := id hlow
    obtain ⟨ha, -, hp⟩ := (position_succ_iff h (n := (tick118 (composedUops s) s).p - 1) (by omega)).1
      ⟨hl, by omega⟩
    exact ⟨ha, by rwa [hp]⟩

/-! ### The edges -/

/-- R12: the phase of the clock period goes on by 1, and is 0 again after its last tick. -/
theorem clockPhase_succ {c : Params} (hc : c.Legal) {p : Nat} (hp : c.t0 < p) :
    (p - c.t0) % c.clkPeriod = if (p - 1 - c.t0) % c.clkPeriod + 1 = c.clkPeriod then 0
      else (p - 1 - c.t0) % c.clkPeriod + 1 := by
  obtain ⟨-, hlow, hperiod, -⟩ := hc
  have hlt := Nat.mod_lt (p - 1 - c.t0) (show 0 < c.clkPeriod by omega)
  rw [show p - c.t0 = p - 1 - c.t0 + 1 by omega, Nat.add_mod, Nat.mod_eq_of_lt (show 1 < c.clkPeriod by omega)]
  split_ifs with hlast
  · rw [hlast, Nat.mod_self]
  · exact Nat.mod_eq_of_lt (by omega)

/-- R12: `PA` is 16 whole clock periods past `T0`. -/
theorem clockPhase_acceptPos (c : Params) : (c.acceptPos - c.t0) % c.clkPeriod = 0 := by
  simp [Params.acceptPos]

/-- R12: the low parts of the train begin exactly at the positions `F(j)`. -/
theorem clockLowAt_begins_iff {c : Params} (hc : c.Legal) (p : Nat) :
    ¬ ClockLowAt c (p - 1) ∧ ClockLowAt c p ↔ ∃ j < 16, p = c.fallAt j := by
  have hlow : 1 ≤ c.clkLow := hc.2.1
  have hperiod : c.clkLow < c.clkPeriod := hc.2.2.1
  have ht := (positions_order hc).1
  rw [fallAt_iff hc]
  unfold ClockLowAt
  rcases Nat.lt_or_ge c.t0 p with hgt | hle
  · have hphase := clockPhase_succ hc hgt
    split_ifs at hphase <;> omega
  · have hphase : (p - c.t0) % c.clkPeriod = 0 := by rw [Nat.sub_eq_zero_of_le hle, Nat.zero_mod]
    omega

/-- R12: the low parts of the train end exactly at the positions `R(j)`, none at `PA`, where the phase is 0 again. -/
theorem clockLowAt_ends_iff {c : Params} (hc : c.Legal) (p : Nat) :
    ClockLowAt c (p - 1) ∧ ¬ ClockLowAt c p ↔ ∃ j < 16, p = c.riseAt j := by
  have hlow : 1 ≤ c.clkLow := hc.2.1
  have hperiod : c.clkLow < c.clkPeriod := hc.2.2.1
  have ht := (positions_order hc).1
  have hend : p = c.acceptPos → (p - c.t0) % c.clkPeriod = 0 := by
    rintro rfl; exact clockPhase_acceptPos c
  rw [riseAt_iff hc]
  unfold ClockLowAt
  rcases Nat.lt_or_ge c.t0 p with hgt | hle
  · have hphase := clockPhase_succ hc hgt
    split_ifs at hphase <;> omega
  · have hphase : (p - c.t0) % c.clkPeriod = 0 := by rw [Nat.sub_eq_zero_of_le hle, Nat.zero_mod]
    omega

section
variable {s t u : State} (h : BlockInv s) (hst : step s = .next t) (htu : step t = .next u)
include h hst htu

/-- R81, R87: the levels of two successive ticks, by the cycle position of the second. -/
theorem levels_of_two_steps :
    (t.out.latchOut = true ↔ t.loop = .active ∧ 0 < t.p ∧ t.p ≤ t.cfg.latchWidth) ∧
    (u.out.latchOut = true ↔ t.loop = .active ∧ t.p < t.cfg.latchWidth ∧ ¬ exitsNow t) ∧
    (t.out.clockOut = false ↔ t.loop = .active ∧ ClockLowAt t.cfg (t.p - 1)) ∧
    (u.out.clockOut = false ↔ t.loop = .active ∧ ClockLowAt t.cfg t.p) := by
  have ht : BlockInv t := everyStepKeepsTheInvariant s t h hst
  rw [step_composed (curIn_bench_of_composed ht.composed) htu]
  exact ⟨latchOut_before h hst, latchOut_tick118 ht, clockOut_before h hst,
    (clockOut_tick118 ht).trans (clockLowNow_iff t)⟩

/-- R87: the latch line rises at a top that does not exit, and nowhere else. -/
theorem latchOut_rises_iff :
    t.out.latchOut = false ∧ u.out.latchOut = true ↔ t.loop = .active ∧ t.p = 0 ∧ ¬ exitsNow t := by
  have hw : 1 ≤ t.cfg.latchWidth := (everyStepKeepsTheInvariant s t h hst).legal.1
  obtain ⟨hlt, hlu, -, -⟩ := levels_of_two_steps h hst htu
  rw [← Bool.not_eq_true, hlt, hlu]
  constructor
  · rintro ⟨hlow, ha, hp, he⟩
    exact ⟨ha, by by_contra h0; exact hlow ⟨ha, by omega, by omega⟩, he⟩
  · rintro ⟨ha, hp, he⟩
    exact ⟨fun hin => by omega, ha, by omega, he⟩

/-- R87: the latch line falls at position `LATCH_WIDTH`, and nowhere else. -/
theorem latchOut_falls_iff :
    t.out.latchOut = true ∧ u.out.latchOut = false ↔ t.loop = .active ∧ t.p = t.cfg.latchWidth := by
  have hw : 1 ≤ t.cfg.latchWidth := (everyStepKeepsTheInvariant s t h hst).legal.1
  obtain ⟨hlt, hlu, -, -⟩ := levels_of_two_steps h hst htu
  rw [← Bool.not_eq_true, hlt, hlu]
  constructor
  · rintro ⟨⟨ha, h0, hle⟩, hlow⟩
    have he : ¬ exitsNow t := fun he => by have := he.2.1; omega
    exact ⟨ha, by by_contra hne; exact hlow ⟨ha, by omega, he⟩⟩
  · rintro ⟨ha, hp⟩
    exact ⟨⟨ha, by omega, by omega⟩, fun hin => by omega⟩

/-- R87: the clock line falls at the positions `F(j)` of a cycle, and nowhere else. -/
theorem clockOut_falls_iff :
    t.out.clockOut = true ∧ u.out.clockOut = false ↔ t.loop = .active ∧ ∃ j < 16, t.p = t.cfg.fallAt j := by
  have hc : t.cfg.Legal := (everyStepKeepsTheInvariant s t h hst).legal
  obtain ⟨-, -, hct, hcu⟩ := levels_of_two_steps h hst htu
  rw [← Bool.not_eq_false, hct, hcu, ← clockLowAt_begins_iff hc]
  tauto

/-- R87: the clock line rises at the positions `R(j)` of a cycle, and nowhere else. -/
theorem clockOut_rises_iff :
    t.out.clockOut = false ∧ u.out.clockOut = true ↔ t.loop = .active ∧ ∃ j < 16, t.p = t.cfg.riseAt j := by
  have hc : t.cfg.Legal := (everyStepKeepsTheInvariant s t h hst).legal
  obtain ⟨-, -, hct, hcu⟩ := levels_of_two_steps h hst htu
  rw [← Bool.not_eq_false, hct, hcu, ← clockLowAt_ends_iff hc]
  tauto

/-- R87: at `PA` the train is over. -/
theorem trainOver_at_acceptPos (hp : t.p = t.cfg.acceptPos) :
    t.cgBusy = false ∧ u.out.clockOut = true := by
  have ht : BlockInv t := everyStepKeepsTheInvariant s t h hst
  obtain ⟨-, -, -, hcu⟩ := levels_of_two_steps h hst htu
  constructor
  · rw [← Bool.not_eq_true, ht.cgBusy_iff]
    exact fun ⟨_, _, hhi⟩ => hhi.ne hp
  · rw [← Bool.not_eq_false, hcu]
    exact fun ⟨_, _, hhi, _⟩ => hhi.ne hp

/-- R13, R87: `LATCH_CLOCK_GAP` keeps the edges of the two lines apart: the latch line changes up to `LATCH_WIDTH`, the
clock line from `T0` on. -/
theorem lines_never_change_together : ¬ (t.out.latchOut ≠ u.out.latchOut ∧ t.out.clockOut ≠ u.out.clockOut) := by
  have hgap : t.cfg.latchWidth < t.cfg.t0 := (positions_order (everyStepKeepsTheInvariant s t h hst).legal).2.1
  rintro ⟨hlatch, hclock⟩
  have hearly : t.p ≤ t.cfg.latchWidth := by
    rcases Bool.eq_false_or_eq_true t.out.latchOut with hb | hb
    · exact ((latchOut_falls_iff h hst htu).1 ⟨hb, by simpa [hb] using hlatch.symm⟩).2.le
    · rw [((latchOut_rises_iff h hst htu).1 ⟨hb, by simpa [hb] using hlatch.symm⟩).2.1]
      exact Nat.zero_le _
  have hlate : t.cfg.t0 ≤ t.p := by
    rcases Bool.eq_false_or_eq_true t.out.clockOut with hb | hb
    · obtain ⟨-, j, -, hp⟩ := (clockOut_falls_iff h hst htu).1 ⟨hb, by simpa [hb] using hclock.symm⟩
      rw [hp]; exact Nat.le_add_right _ _
    · obtain ⟨-, j, -, hp⟩ := (clockOut_rises_iff h hst htu).1 ⟨hb, by simpa [hb] using hclock.symm⟩
      rw [hp, Params.riseAt, Params.fallAt, Nat.add_assoc]; exact Nat.le_add_right _ _
  omega

end

/-- Settles O32: the level before and the level in a tick are functions of its position, and they differ exactly at the
positions of R87's table. -/
theorem edgesWithinACycle : Obligations.EdgesWithinACycle := by
  unfold Obligations.EdgesWithinACycle
  intro s t u h hst htu
  exact ⟨latchOut_rises_iff h hst htu, latchOut_falls_iff h hst htu, clockOut_falls_iff h hst htu,
    clockOut_rises_iff h hst htu, fun _ => trainOver_at_acceptPos h hst htu, lines_never_change_together h hst htu⟩

end Sys2Proof.Machine
end

section
/-! SUPPORT. O34: what the two reads of a bit leave behind. -/

namespace Sys2Proof.Machine

/-- `ReadLine()` reads the first of the pending inputs. -/
theorem readLine_eq_dataAt (s : State) : readLine s = dataAt s 0 := by
  have hcur : curIn s = inputAt s 0 := by
    unfold curIn inputAt
    cases s.inputs <;> rfl
  rw [readLine, dataAt, hcur, Nat.add_zero]

/-- R92: a first read leaves the level of the line in `smp_a`. -/
theorem exec_uSmpa_smpA {k : BitIndex} {s a : State} (h : exec (.uSmpa k) s = .next a) : a.smpA = dataAt s 0 := by
  cases h
  exact readLine_eq_dataAt s

/-- R93: a second read leaves in its own bit the AND of `smp_a` and the level of the line. -/
theorem exec_uSmpb_getLsbD {k : BitIndex} {s t : State} (h : exec (.uSmpb k) s = .next t) :
    t.smpFrame.getLsbD k.toNat = (s.smpA && dataAt s 0) := by
  cases h
  rw [setFrameBit_getLsbD _ _ _ _ k.isLt, if_pos rfl, readLine_eq_dataAt]

/-- Settles O34: the second read ANDs the line with the level that the first one left in `smp_a`. -/
theorem readPolicy : Obligations.ReadPolicy := by
  unfold Obligations.ReadPolicy
  intro k s a u t hfirst hkeeps hsecond
  rw [exec_uSmpb_getLsbD hsecond, hkeeps, exec_uSmpa_smpA hfirst, Bool.and_eq_true]

end Sys2Proof.Machine
end

section
/-! SUPPORT. O38, O39: a call of U_ACCEPT by its place in the window, and the vote over the three calls. -/

namespace Sys2Proof.Machine

/-! ### One call (R99) -/

section

variable {s : State}

/-- The first call of a window keeps its frame in `win[0]`. -/
theorem exec_uAccept_first (h : s.voteCtr = 0) : exec .uAccept s =
    .next { s with win0 := s.smpFrame, voteCtr := 1, lastEval := false, lastAgree := false } := by
  rw [execUAccept_eq]
  simp [h, stableNext, voteNext, evalFlag, agreeFlag]

/-- The second call of a window keeps its frame in `win[1]`. -/
theorem exec_uAccept_second (h : s.voteCtr = 1) : exec .uAccept s =
    .next { s with win1 := s.smpFrame, voteCtr := 2, lastEval := false, lastAgree := false } := by
  rw [execUAccept_eq]
  simp [h, stableNext, voteNext, evalFlag, agreeFlag]

/-- The third call of a window votes on the two frames kept and its own, and the next window begins. -/
theorem exec_uAccept_third (h : s.voteCtr = 2) : exec .uAccept s =
    .next { s with
      win2 := s.smpFrame
      stable := if s.win0 = s.win1 ∧ s.win1 = s.smpFrame then s.smpFrame else s.stable
      voteCtr := 0
      lastEval := true
      lastAgree := decide (s.win0 = s.win1 ∧ s.win1 = s.smpFrame) } := by
  rw [execUAccept_eq]
  simp [h, stableNext, voteNext, evalFlag, agreeFlag, framesAgree]

end

/-- Settles O38: the vote of the third call goes one way or the other. -/
theorem acceptEffect : Obligations.AcceptEffect := by
  unfold Obligations.AcceptEffect
  refine ⟨by decide, fun s => ⟨exec_uAccept_first, exec_uAccept_second, fun h h01 h1f => ?_, fun h hne => ?_⟩⟩
  · rw [exec_uAccept_third h, if_pos ⟨h01, h1f⟩, decide_eq_true ⟨h01, h1f⟩]
  · rw [exec_uAccept_third h, if_neg hne, decide_eq_false hne]

/-! ### The three calls of a window (R102, R103) -/

/-- Settles O39: the frames of the first two calls are what the third finds in `win[0]` and `win[1]`, so its vote is on
the three frames of the window. -/
theorem voteOverAWindow : Obligations.VoteOverAWindow := by
  unfold Obligations.VoteOverAWindow
  intro s a u b v c hsCtr ha hu0 huCtr huStable hb hv0 hv1 hvCtr hvStable hc
  rw [exec_uAccept_first hsCtr] at ha
  cases ha
  rw [exec_uAccept_second huCtr] at hb
  cases hb
  rw [exec_uAccept_third hvCtr] at hc
  cases hc
  have h0 : v.win0 = s.smpFrame := hv0.trans hu0
  have h1 : v.win1 = u.smpFrame := hv1
  have hkept : v.stable = s.stable := hvStable.trans huStable
  refine ⟨rfl, huStable, rfl, rfl, fun hsu huv => ?_, fun hne => ?_⟩
  · have hagree : v.win0 = v.win1 ∧ v.win1 = v.smpFrame := ⟨h0.trans (hsu.trans h1.symm), h1.trans huv⟩
    exact ⟨(if_pos hagree).trans (hsu.trans huv).symm, decide_eq_true hagree⟩
  · have hdiffer : ¬ (v.win0 = v.win1 ∧ v.win1 = v.smpFrame) := by
      rw [h0, h1]
      exact fun ⟨hsu, huv⟩ => hne ⟨hsu, huv, hsu.trans huv⟩
    exact ⟨(if_neg hdiffer).trans hkept, decide_eq_false hdiffer⟩

end Sys2Proof.Machine
end

section
/-! SUPPORT. O45: TAKE and U_REFRAME in one tick. -/

namespace Sys2Proof.Machine

open Sys2Proof.Spec

theorem uReframe_mem_sched {c : Params} {p : Nat} : .uReframe ∈ sched c p ↔ p = c.reframePos := by
  simp [mem_sched, mem_schedWork]

/-- R114, R116: the composed block issues U_REFRAME at its own position of a cycle and nowhere else; that position is no
top, so no exit drops it. -/
theorem uReframe_mem_issued {s : State} :
    .uReframe ∈ issuedUops (composedUops s) s ↔ s.loop = .active ∧ s.p = s.cfg.reframePos := by
  rw [mem_issued_composed, uReframe_mem_sched]
  refine and_iff_right_of_imp fun ⟨_, hp⟩ ⟨_, htop, _⟩ => ?_
  obtain ⟨-, hpos, -⟩ := positions s.cfg
  omega

section
variable {us : List Instr} {s : State} {n : Nat} {x : Slot} (hx : s.slots[n]? = some x)
include hx

/-- R111: one port's slot after the tick. -/
theorem tick118_slots_getElem? : (tick118 us s).slots[n]? = some
    (if .uReframe ∈ issuedUops us s ∧ s.lastEval = true then ⟨true, reframe s.stable⟩
      else ⟨if takeStrobe (curIn s) n = true ∧ x.valid = true then false else x.valid, x.frame⟩) := by
  rw [tick118_slots, List.getElem?_mapIdx, hx, Option.map_some]

/-- R110, R111: what one port's TAKE hands over, written or not: the start-of-tick frame, where it is valid. -/
theorem tick118_handed_getElem? : (tick118 us s).out.handed[n]? =
    some (if takeStrobe (curIn s) n = true ∧ x.valid = true then some x.frame else none) := by
  simp only [tick118, List.getElem?_mapIdx, hx, Option.map_some]

end

/-- Settles O45: the spec's `Step` on one port, whose write is that of the U_REFRAME position in a cycle whose U_ACCEPT
closed a window. -/
theorem takeAndReframeInOneTick : Obligations.TakeAndReframeInOneTick := by
  unfold Obligations.TakeAndReframeInOneTick
  intro s t n x _ _ hb hstep hx
  rw [step_composed hb hstep]
  refine ⟨?_, tick118_handed_getElem? hx⟩
  simp only [tick118_slots_getElem? hx, uReframe_mem_issued, and_assoc]

end Sys2Proof.Machine
end

section
/-! SUPPORT. O43: the re-framing function. -/

namespace Sys2Proof.Machine

/-- R107: the mask clears nothing but the bit that the shift has left at 0. -/
theorem reframe_eq_shiftLeft (v : Word16) : reframe v = v.setWidth 17 <<< 1 := by
  refine BitVec.eq_of_getLsbD_eq fun j hj => ?_
  cases j with
  | zero => rw [reframe_getLsbD_zero]; simp
  | succ j =>
    rw [reframe_getLsbD_succ v j (by omega)]
    simp [hj]

/-- R107: no bit is lost: the frame's value is twice the state's. -/
theorem reframe_toNat (v : Word16) : (reframe v).toNat = 2 * v.toNat := by
  have hlt : v.toNat < 2 ^ 16 := v.isLt
  rw [reframe_eq_shiftLeft, BitVec.toNat_shiftLeft, BitVec.toNat_setWidth, Nat.shiftLeft_eq]
  omega

/-- Settles O43: the value from the shift alone, the bits from R49. -/
theorem reframeFunction : Obligations.ReframeFunction := by
  unfold Obligations.ReframeFunction
  intro v
  exact ⟨rfl, reframe_toNat v, reframe_getLsbD_zero v, reframe_getLsbD_succ v⟩

end Sys2Proof.Machine
end

section
/-! SUPPORT. O12: the composed block's step, and runs of it. -/

namespace Sys2Proof.Machine

open Sys2Proof.Spec

/-- Settles O12: the phases of a tick whose set is the schedule's make the spec's `Step`. -/
theorem stepIsTheTickOfTheSpec : Obligations.StepIsTheTickOfTheSpec := by
  unfold Obligations.StepIsTheTickOfTheSpec
  intro s hc hr hb
  exact step_eq_tick118 hc hr (.inl ⟨hb, rfl⟩)

/-- R118, R133: the step of a composed block answers the spec's `Step` over the schedule's set. -/
theorem BlockInv.step_eq {s : State} (h : BlockInv s) : step s = .next (tick118 (composedUops s) s) :=
  stepIsTheTickOfTheSpec s h.legal h.ranges (curIn_bench_of_composed h.composed)

/-! ### Runs -/

/-- A run of `n + 1` ticks is a run of `n` and a step. -/
theorem run_succ_last (n : Nat) (s : State) :
    Sys2Proof.core.run (n + 1) s = andThen (Sys2Proof.core.run n s) step := by
  induction n generalizing s with
  | zero =>
    rw [run_succ]
    change andThen (step s) (Sys2Proof.core.run 0) = step s
    cases step s <;> rfl
  | succ n ih =>
    rw [run_succ, run_succ]
    cases step s with
    | next t => exact ih t
    | fault r => rfl
    | refused r => rfl

/-- A run that answers after `n` ticks and a step that answers from there make a run of `n + 1`. -/
theorem run_append_step {n : Nat} {s t u : State} (hrun : Sys2Proof.core.run n s = .next t)
    (hstep : step t = .next u) : Sys2Proof.core.run (n + 1) s = .next u := by
  rw [run_succ_last, hrun]
  exact hstep

/-- The last step of a run that answers. -/
theorem exists_last_step {n : Nat} {s u : State} (h : Sys2Proof.core.run (n + 1) s = .next u) :
    ∃ t : State, Sys2Proof.core.run n s = .next t ∧ step t = .next u := by
  rw [run_succ_last] at h
  exact andThen_eq_next.1 h

/-- What every step keeps, every run keeps. -/
theorem run_keeps {P : State → Prop} (hstep : ∀ s t, P s → step s = .next t → P t) {n : Nat} {s t : State} (hs : P s)
    (hrun : Sys2Proof.core.run n s = .next t) : P t := by
  induction n generalizing t with
  | zero => cases hrun; exact hs
  | succ n ih =>
    obtain ⟨v, hv, hvt⟩ := exists_last_step hrun
    exact hstep v t (ih hv) hvt

/-- R43: a run keeps the parameters. -/
theorem run_cfg {n : Nat} {s t : State} (hrun : Sys2Proof.core.run n s = .next t) : t.cfg = s.cfg := by
  refine run_keeps (P := fun x => x.cfg = s.cfg) (fun a b ha hstep => ?_) rfl hrun
  obtain ⟨-, -, us, -, rfl⟩ := step_eq_next_iff.1 hstep
  exact ha

/-- R42: a run of the composed block keeps its invariant. -/
theorem BlockInv.run {n : Nat} {s t : State} (h : BlockInv s) (hrun : Sys2Proof.core.run n s = .next t) : BlockInv t :=
  run_keeps everyStepKeepsTheInvariant h hrun

end Sys2Proof.Machine
end

section
/-! SUPPORT. O16: the lifecycle of the composed block. -/

namespace Sys2Proof.Machine

open Sys2Proof.Spec

/-- R113, R119: a STOP in RUNNING leaves STOPPED. -/
theorem lifeTable_stop : lifeTable .running 0b10#2 = .stopped := rfl

/-- R119, R124: STOPPED is terminal. -/
theorem lifeTable_stopped (w : HcmdWord) : lifeTable .stopped w = .stopped := rfl

/-- R119: out of IDLE there is no way back. -/
theorem lifeTable_ne_idle {l : Life} (h : l ≠ .idle) (w : HcmdWord) : lifeTable l w ≠ .idle := by
  obtain ⟨-, -, hleft, -⟩ := lifeTable_facts l w
  exact hleft h

/-- R112: START is accepted only before the loop has begun. -/
theorem BlockInv.waiting_of_startAccepted {s : State} (h : BlockInv s) (hs : startAccepted s) : s.loop = .waiting := by
  have hidle : s.life = .idle := hs.2
  cases hl : s.loop with
  | waiting => rfl
  | active => exact absurd hidle (h.active hl)
  | exited => have hstop := h.exited hl; rw [hidle] at hstop; cases hstop

/-- R119, second table: `loop` after a tick of the composed block. -/
theorem loop_tick118_composed {s : State} (h : BlockInv s) :
    (s.loop = .waiting → (tick118 (composedUops s) s).loop = if startAccepted s then .active else .waiting) ∧
    (s.loop = .active → (tick118 (composedUops s) s).loop =
      if s.p = 0 ∧ lifeTable s.life (curIn s).hcmd = .stopped then .exited else .active) ∧
    (s.loop = .exited → (tick118 (composedUops s) s).loop = .exited) := by
  have hs : s.loop ≠ .waiting → ¬ startAccepted s := fun hn hs => hn (h.waiting_of_startAccepted hs)
  simp only [tick118_loop, exit_composed]
  refine ⟨fun hw => ?_, fun ha => ?_, fun hx => ?_⟩
  · simp [exitsNow, hw]
  · rw [if_neg (hs (by simp [ha]))]
    simp [exitsNow, ha]
  · rw [if_neg (hs (by simp [hx]))]
    simp [exitsNow, hx]

/-- Settles O16: phase H is the first table, and phase A moves the loop as the second. -/
theorem lifecycleTables : Obligations.LifecycleTables := by
  unfold Obligations.LifecycleTables
  intro s t h hstep
  rw [step_composed (curIn_bench_of_composed h.composed) hstep]
  obtain ⟨hwaiting, hactive, hexited⟩ := loop_tick118_composed h
  refine ⟨tick118_life _ s, ?_, fun hs => by rw [tick118_p, if_pos hs]⟩
  cases hl : s.loop with
  | waiting => exact hwaiting hl
  | active => exact hactive hl
  | exited => exact hexited hl

end Sys2Proof.Machine
end

section
/-! SUPPORT. O27: the loop and the position. -/

namespace Sys2Proof.Machine

open Sys2Proof.Spec

/-- R119: a begun lifecycle stays begun through a tick of any kind. -/
theorem life_ne_idle_step {s t : State} (h : s.life ≠ .idle) (hstep : step s = .next t) : t.life ≠ .idle := by
  obtain ⟨-, -, us, -, rfl⟩ := step_eq_next_iff.1 hstep
  exact lifeTable_ne_idle h _

/-- R119, over a run. -/
theorem life_ne_idle_run {n : Nat} {s t : State} (h : s.life ≠ .idle) (hrun : Sys2Proof.core.run n s = .next t) :
    t.life ≠ .idle :=
  run_keeps (P := fun x => x.life ≠ .idle) (fun _ _ => life_ne_idle_step) h hrun

/-- R117: a tick after which a begun loop is active was a tick of its cycle, which it takes one position on. -/
theorem active_before_active {s t : State} (h : BlockInv s) (hlife : s.life ≠ .idle) (hstep : step s = .next t)
    (ht : t.loop = .active) : s.loop = .active ∧ t.p = (s.p + 1) % s.cfg.pollInterval := by
  rw [step_composed (curIn_bench_of_composed h.composed) hstep] at ht ⊢
  obtain ⟨-, hl, -⟩ | ⟨ha, -, -, hp⟩ | ⟨hn, hl, -⟩ := loop_cases_composed h
  · rw [hl] at ht; cases ht
  · exact ⟨ha, hp⟩
  · rw [hl, if_neg fun hs => hlife hs.2] at ht
    exact absurd ht hn

/-- R117: from a top the position counts the ticks modulo `POLL_INTERVAL`, as long as the loop is active. -/
theorem position_of_run {s : State} (h : BlockInv s) (ha : s.loop = .active) (hp : s.p = 0) {m : Nat} {t : State}
    (hrun : Sys2Proof.core.run m s = .next t) (ht : t.loop = .active) : t.p = m % s.cfg.pollInterval := by
  induction m generalizing t with
  | zero => cases hrun; rw [hp, Nat.zero_mod]
  | succ m ih =>
    obtain ⟨v, hv, hstep⟩ := exists_last_step hrun
    have hlife : v.life ≠ .idle := life_ne_idle_run (h.active ha) hv
    obtain ⟨hact, hpos⟩ := active_before_active (h.run hv) hlife hstep ht
    rw [hpos, run_cfg hv, ih hv hact, Nat.mod_add_mod]

/-- Settles O27: phase A of the spec's `Step`, and the count of its positions over a run. -/
theorem positionAdvance : Obligations.PositionAdvance := by
  unfold Obligations.PositionAdvance
  refine ⟨fun s t _ _ hb hstep => ?_, fun s h => h.waiting_of_startAccepted,
    fun s m t h ha hp hrun ht => position_of_run h ha hp hrun ht⟩
  rw [step_composed hb hstep]
  simp only [tick118_loop, tick118_p, exit_composed]
  split_ifs with h1 h2 h3
  · rfl
  · rfl
  · rw [h3]
  · rfl

end Sys2Proof.Machine
end

section
/-! SUPPORT. O24: the positions of the schedule. -/

namespace Sys2Proof.Machine

/-- R67: the indices `k` below 16 are the 4-bit numbers. -/
theorem exists_lt_16_iff {P : Nat → Prop} {Q : BitIndex → Prop} :
    (∃ k < 16, P k ∧ Q (BitVec.ofNat 4 k)) ↔ ∃ k : BitIndex, Q k ∧ P k.toNat := by
  constructor
  · rintro ⟨k, hk, hP, hQ⟩
    exact ⟨BitVec.ofNat 4 k, hQ, by rwa [BitVec.toNat_ofNat, Nat.mod_eq_of_lt hk]⟩
  · rintro ⟨k, hQ, hP⟩
    exact ⟨k.toNat, k.isLt, hP, by rwa [BitVec.ofNat_toNat, BitVec.setWidth_eq]⟩

theorem forall_lt_16_iff {P : Nat → Prop} : (∀ k < 16, P k) ↔ ∀ k : BitIndex, P k.toNat := by
  refine ⟨fun h k => h k.toNat k.isLt, fun h k hk => ?_⟩
  have hP := h (BitVec.ofNat 4 k)
  rwa [BitVec.toNat_ofNat, Nat.mod_eq_of_lt hk] at hP

/-- R116: the positions without a first read, and those without a second. -/
theorem schedSmpa_eq_nil_iff {c : Params} {p : Nat} : schedSmpa c p = [] ↔ ∀ k < 16, p ≠ c.readA k := by
  simp [schedSmpa, List.filter_eq_nil_iff]

theorem schedSmpb_eq_nil_iff {c : Params} {p : Nat} : schedSmpb c p = [] ↔ ∀ k < 16, p ≠ c.readB k := by
  simp [schedSmpb, List.filter_eq_nil_iff]

/-- R116: the positions that carry no work. -/
theorem schedWork_eq_nil_iff {c : Params} {p : Nat} : schedWork c p = [] ↔
    p ≠ 0 ∧ p ≠ c.t0 ∧ p ≠ c.acceptPos ∧ p ≠ c.reframePos ∧
      ∀ k : BitIndex, p ≠ c.readA k.toNat ∧ p ≠ c.readB k.toNat := by
  simp only [schedWork, List.append_eq_nil_iff, schedSmpa_eq_nil_iff, schedSmpb_eq_nil_iff, forall_lt_16_iff,
    forall_and, ite_eq_right_iff, reduceCtorEq, imp_false]
  tauto

/-- R116: every entry of `Sched(p)`, U_WAIT among them, by its position. -/
theorem mem_sched_iff {c : Params} {p : Nat} {i : Instr} : i ∈ sched c p ↔
    (i = .uTop ∧ p = 0) ∨ (i = .uLatch ∧ p = 0) ∨ (i = .uClk16 ∧ p = c.t0) ∨
    (∃ k : BitIndex, i = .uSmpa k ∧ p = c.readA k.toNat) ∨ (∃ k : BitIndex, i = .uSmpb k ∧ p = c.readB k.toNat) ∨
    (i = .uAccept ∧ p = c.acceptPos) ∨ (i = .uReframe ∧ p = c.reframePos) ∨
    (i = .uWait ∧ p ≠ 0 ∧ p ≠ c.t0 ∧ p ≠ c.acceptPos ∧ p ≠ c.reframePos ∧
      ∀ k : BitIndex, p ≠ c.readA k.toNat ∧ p ≠ c.readB k.toNat) := by
  rw [mem_sched, mem_schedWork, schedWork_eq_nil_iff,
    exists_lt_16_iff (P := fun k => p = c.readA k) (Q := fun k => i = .uSmpa k),
    exists_lt_16_iff (P := fun k => p = c.readB k) (Q := fun k => i = .uSmpb k)]
  simp only [or_and_right, or_assoc, and_comm (a := p = _)]

/-- R116: two micro-operations share a position at a top, and at `T0` where the first read stands there too. -/
theorem coinciding_positions {c : Params} (hc : c.Legal) {p : Nat} (h : 1 < (sched c p).length) :
    p = 0 ∨ (p = c.t0 ∧ c.t0 = c.readA 0) := by
  obtain ⟨h0, -⟩ | ⟨ht, hA, -⟩ | ⟨-, -, e⟩ | ⟨k, -, -, -, e⟩ | ⟨k, -, -, e⟩ | ⟨-, e⟩ | ⟨-, e⟩ |
    ⟨-, -, -, -, -, e⟩ := sched_cases hc p
  · exact .inl h0
  · exact .inr ⟨ht, ht ▸ hA⟩
  all_goals simp [e] at h

/-- Settles O24: each entry by its position, the coincidences, and the order of the reads. -/
theorem scheduleIssuesExactly : Obligations.ScheduleIssuesExactly := by
  unfold Obligations.ScheduleIssuesExactly
  refine ⟨fun c p i => mem_sched_iff, fun c p hc h => coinciding_positions hc h, fun c hc k hk => ?_⟩
  obtain ⟨hA, hAB, -, hB⟩ := read_order hc hk
  exact ⟨hA, hAB, hB⟩

end Sys2Proof.Machine
end

section
/-! SUPPORT. What a tick makes of the command and of `life`: the steps of two states that differ in these alone. -/

namespace Sys2Proof.Machine

open Sys2Proof.Spec

/-! ### When two steps give one answer -/

section
variable {s : State} {us : List Instr}

/-- R69: a tick with a word that is none is refused. -/
theorem tickOnce_of_error {r : Refusal} (h : decodeWords s.cfg.nPorts (uopWords s) = .error r) :
    tickOnce s = .refused r := by
  simp only [tickOnce, decodeWords_fetch_error h]

/-- R70: a tick whose micro-operations clash is refused. -/
theorem tickOnce_of_clash (h : decodeWords s.cfg.nPorts (uopWords s) = .ok us) (hclash : unitClash us = true) :
    tickOnce s = .refused .unitConflict := by
  simp only [tickOnce, decodeWords_fetch h, unitClash_ports, hclash, if_true]

/-- R69, R70: a tick whose words decode without a clash has the decoded set. -/
theorem tickUops_of_decode (h : decodeWords s.cfg.nPorts (uopWords s) = .ok us) (hclash : unitClash us = false) :
    TickUops s us := by
  cases hb : (curIn s).bench with
  | none =>
    rw [uopWords_composed hb] at h
    cases h
    exact .inl ⟨hb, rfl⟩
  | some ws =>
    rcases uopWords_or ws with ⟨vs, hvs⟩ | hbad
    · rw [uopWords_bench hb hvs] at h
      cases h
      exact .inr ⟨ws, hb, hvs, hclash⟩
    · obtain ⟨w, -, -, he⟩ := decodeWords_illegal s.cfg.nPorts ws hbad
      simp only [uopWords, hb, he] at h
      cases h

end

/-- R13, R41, R69, R70: the parameters, the ranges and the UOP words decide what a step refuses; two states that agree
on these and have one `Step` have one step. -/
theorem step_congr {a b : State} (hcfg : b.cfg = a.cfg) (hranges : RangesOk b ↔ RangesOk a)
    (hwords : uopWords b = uopWords a) (htick : ∀ us, tick118 us b = tick118 us a) : step b = step a := by
  obtain ⟨hc, hs⟩ | ⟨hc, hr, hs⟩ | ⟨hc, hr, hs⟩ := step_cases a
  · rw [hs, step_refuses_illegal (hcfg ▸ hc)]
  · obtain ⟨hn, -⟩ | ⟨-, -, hsb⟩ | ⟨-, hrb, -⟩ := step_cases b
    · exact absurd (hcfg ▸ hc) hn
    · rw [hs, hsb]
    · exact absurd (hranges.1 hrb) hr
  · obtain ⟨hn, -⟩ | ⟨-, hn, -⟩ | ⟨hcb, hrb, hsb⟩ := step_cases b
    · exact absurd (hcfg ▸ hc) hn
    · exact absurd (hranges.2 hr) hn
    · have hdecb : decodeWords b.cfg.nPorts (uopWords b) = decodeWords a.cfg.nPorts (uopWords a) := by
        rw [hcfg, hwords]
      cases hdec : decodeWords a.cfg.nPorts (uopWords a) with
      | error r => rw [hs, hsb, tickOnce_of_error hdec, tickOnce_of_error (hdecb.trans hdec)]
      | ok us =>
        cases hclash : unitClash us with
        | true => rw [hs, hsb, tickOnce_of_clash hdec hclash, tickOnce_of_clash (hdecb.trans hdec) hclash]
        | false =>
          rw [step_eq_tick118 hc hr (tickUops_of_decode hdec hclash),
            step_eq_tick118 hcb hrb (tickUops_of_decode (hdecb.trans hdec) hclash), htick]

/-! ### States that differ in what the host sends and has sent -/

/-- R121, R124: `b` is `a` but for `life`, `life_out` and the commands still to come, and in both of them
START lies behind. -/
structure AlikeButHost (a b : State) : Prop where
  begun  : a.life ≠ .idle ∧ b.life ≠ .idle
  inputs : ∀ n, { inputAt b n with hcmd := 0b00#2 } = { inputAt a n with hcmd := 0b00#2 }
  rest   : b = { a with life := b.life, inputs := b.inputs, out := { a.out with lifeOut := b.out.lifeOut } }

theorem curIn_eq_inputAt (s : State) : curIn s = inputAt s 0 := by
  unfold curIn inputAt
  cases s.inputs <;> rfl

theorem inputAt_tick118 (us : List Instr) (s : State) (n : Nat) : inputAt (tick118 us s) n = inputAt s (n + 1) := by
  change s.inputs.tail.getD n TickIn.quiet = s.inputs.getD (n + 1) TickIn.quiet
  cases s.inputs <;> rfl

/-- What a tick reads from its inputs, but for the command, is the same for two such states. -/
theorem AlikeButHost.portInputs {a b : State} (h : AlikeButHost a b) :
    (curIn b).data = (curIn a).data ∧ (curIn b).takes = (curIn a).takes ∧ (curIn b).bench = (curIn a).bench := by
  have h0 := h.inputs 0
  rw [← curIn_eq_inputAt, ← curIn_eq_inputAt] at h0
  injection h0 with _ hd ht hb
  exact ⟨hd, ht, hb⟩

/-- R121, R124: where both exit or neither does, the `Step`s of two such states are two such states again. -/
theorem AlikeButHost.next {a b : State} (h : AlikeButHost a b) {us : List Instr}
    (hexit : (.uTop ∈ us ∧ lifeTable b.life (curIn b).hcmd = .stopped) ↔
      .uTop ∈ us ∧ lifeTable a.life (curIn a).hcmd = .stopped) :
    AlikeButHost (tick118 us a) (tick118 us b) := by
  obtain ⟨hdata, htakes, -⟩ := h.portInputs
  obtain ⟨⟨hla, hlb⟩, hin, hrest⟩ := h
  refine ⟨⟨lifeTable_ne_idle hla _, lifeTable_ne_idle hlb _⟩, fun n => ?_, ?_⟩
  · rw [inputAt_tick118, inputAt_tick118]; exact hin (n + 1)
  · have hsa : ¬ startAccepted a := fun hs => hla hs.2
    have hsb : ¬ startAccepted b := fun hs => hlb hs.2
    have htick : b.tick = a.tick := by rw [hrest]
    have hline : readLine b = readLine a := by simp only [readLine, dataLevel, hdata, htick]
    have htake : takeStrobe (curIn b) = takeStrobe (curIn a) := by
      funext n; simp only [takeStrobe, htakes]
    obtain ⟨m, j, c, rfl⟩ : ∃ m j c, b = { a with life := m, inputs := j, out := { a.out with lifeOut := c } } :=
      ⟨_, _, _, hrest⟩
    simp only [tick118, hsa, hsb, hexit, hline, htake]

theorem AlikeButHost.symm {a b : State} (h : AlikeButHost a b) : AlikeButHost b a where
  begun := h.begun.symm
  inputs n := (h.inputs n).symm
  rest := by rw [h.rest]

theorem AlikeButHost.trans {a b c : State} (hab : AlikeButHost a b) (hbc : AlikeButHost b c) : AlikeButHost a c where
  begun := ⟨hab.begun.1, hbc.begun.2⟩
  inputs n := (hbc.inputs n).trans (hab.inputs n)
  rest := by rw [hbc.rest, hab.rest]

/-- Another command in this tick, and another life past the start, make such a state. -/
theorem alikeButHost_withHcmd {s : State} {l : Life} (hs : s.life ≠ .idle) (hl : l ≠ .idle) (w : HcmdWord) :
    AlikeButHost s (withHcmd w { s with life := l }) where
  begun := ⟨hs, hl⟩
  inputs n := by
    cases n with
    | zero => rw [← curIn_eq_inputAt, ← curIn_eq_inputAt]; rfl
    | succ n => rw [← inputAt_tick118 [], ← inputAt_tick118 []]; rfl
  rest := rfl

end Sys2Proof.Machine
end

section
/-! SUPPORT. O17: STOPPED is terminal. -/

namespace Sys2Proof.Machine

open Sys2Proof.Spec

/-- R124: in STOPPED a tick with another command is the same tick. -/
theorem step_withHcmd_of_stopped {s : State} (h : s.life = .stopped) (w : HcmdWord) : step (withHcmd w s) = step s := by
  have hne : s.life ≠ .idle := by simp [h]
  have halike : AlikeButHost s (withHcmd w s) := alikeButHost_withHcmd hne hne w
  refine step_congr rfl Iff.rfl rfl fun us => ?_
  have hnext := (halike.next (us := us) (by simp [h, withHcmd, lifeTable_stopped])).rest
  rw [hnext]
  simp only [tick118, withHcmd, h, lifeTable_stopped, List.tail_cons]

/-- R124: what a tick of any kind leaves of a stopped block's lifecycle. -/
theorem stopped_step {s t : State} (h : s.life = .stopped) (hstep : step s = .next t) :
    t.life = .stopped ∧ (s.loop ≠ .active → t.loop = s.loop) := by
  obtain ⟨-, -, us, -, rfl⟩ := step_eq_next_iff.1 hstep
  refine ⟨by rw [tick118_life, h, lifeTable_stopped], fun hl => ?_⟩
  have hs : ¬ startAccepted s := fun hs => absurd (h.symm.trans hs.2) (by decide)
  rw [tick118_loop, if_neg hs, if_neg fun ha => hl ha.1]

/-- R124, over a run. -/
theorem stopped_run {n : Nat} {s t : State} (h : s.life = .stopped) (hrun : Sys2Proof.core.run n s = .next t) :
    t.life = .stopped ∧ (s.loop ≠ .active → t.loop = s.loop) := by
  refine run_keeps (P := fun x => x.life = .stopped ∧ (s.loop ≠ .active → x.loop = s.loop)) ?_ ⟨h, fun _ => rfl⟩ hrun
  intro a b ⟨hlife, hloop⟩ hstep
  obtain ⟨hlife', hloop'⟩ := stopped_step hlife hstep
  exact ⟨hlife', fun hl => by rw [hloop' (hloop hl ▸ hl), hloop hl]⟩

/-- Settles O17: both commands give the tick as it stands, and a run moves nothing but an active loop. -/
theorem noRestartFromStopped : Obligations.NoRestartFromStopped := by
  unfold Obligations.NoRestartFromStopped
  refine ⟨fun s w v h => by rw [step_withHcmd_of_stopped h, step_withHcmd_of_stopped h], fun n s t h hrun => ?_⟩
  obtain ⟨hlife, hloop⟩ := stopped_run h hrun
  exact ⟨hlife, fun hx => by rw [hloop (by simp [hx]), hx], fun hw => by rw [hloop (by simp [hw]), hw]⟩

end Sys2Proof.Machine
end

section
/-! SUPPORT. O19: the exit after a STOP. -/

namespace Sys2Proof.Machine

open Sys2Proof.Spec

/-- R117: past the top, a tick goes on in its cycle, whatever the command. -/
theorem BlockInv.tick118_past_top {s : State} (h : BlockInv s) (ha : s.loop = .active) (hp : s.p ≠ 0) :
    (tick118 (composedUops s) s).loop = .active ∧ (tick118 (composedUops s) s).p = (s.p + 1) % s.cfg.pollInterval := by
  obtain ⟨he, -⟩ | ⟨-, -, hnext⟩ | ⟨hn, -⟩ := loop_cases_composed h
  · exact absurd he.2.1 hp
  · exact hnext
  · exact absurd ha hn

/-- R117, R121: past the top, a cycle runs up to the next top, one position each tick. -/
theorem run_to_next_top {s : State} (h : BlockInv s) (ha : s.loop = .active) (hp : s.p ≠ 0) {n : Nat}
    (hn : n ≤ s.cfg.pollInterval - s.p) : ∃ t : State, Sys2Proof.core.run n s = .next t ∧
      t.loop = .active ∧ t.p = (s.p + n) % s.cfg.pollInterval := by
  induction n with
  | zero => exact ⟨s, rfl, ha, (Nat.mod_eq_of_lt h.ranges.1).symm⟩
  | succ n ih =>
    obtain ⟨t, hrun, hact, hpos⟩ := ih (by omega)
    rw [Nat.mod_eq_of_lt (by omega)] at hpos
    obtain ⟨hact', hpos'⟩ := (h.run hrun).tick118_past_top hact (by omega)
    exact ⟨_, run_append_step hrun (h.run hrun).step_eq, hact', by rw [hpos', hpos, run_cfg hrun, Nat.add_assoc]⟩

/-- R119: a tick that exits leaves EXITED. -/
theorem step_of_exitsNow {s : State} (h : BlockInv s) (he : exitsNow s) :
    ∃ t, step s = .next t ∧ t.loop = .exited := by
  refine ⟨_, h.step_eq, ?_⟩
  rw [(loop_tick118_composed h).2.1 he.1, if_pos he.2]

/-- R120: where a STOP is accepted past the top, the next top is reached in STOPPED, and exits. -/
theorem run_to_exit {s : State} (h : BlockInv s) (ha : s.loop = .active) (hlife : s.life = .running)
    (hstop : (curIn s).hcmd = 0b10#2) (hp : s.p ≠ 0) :
    ∃ t : State, Sys2Proof.core.run (s.cfg.pollInterval - s.p) s = .next t ∧ exitsNow t := by
  have hlt : s.p < s.cfg.pollInterval := h.ranges.1
  obtain ⟨t, hrun, hact, hpos⟩ := run_to_next_top h ha hp le_rfl
  have htop : t.p = 0 := by rw [hpos, Nat.add_sub_cancel' hlt.le, Nat.mod_self]
  have hfirst : (tick118 (composedUops s) s).life = .stopped := by rw [tick118_life, hlife, hstop, lifeTable_stop]
  obtain ⟨k, hk⟩ : ∃ k, s.cfg.pollInterval - s.p = k + 1 := ⟨s.cfg.pollInterval - s.p - 1, by omega⟩
  have hrest := hrun
  rw [hk, run_succ, h.step_eq] at hrest
  have hstopped : t.life = .stopped := (stopped_run hfirst hrest).1
  exact ⟨t, hrun, hact, htop, by rw [hstopped, lifeTable_stopped]⟩

/-- R37, R39: what the tick after an exit shows. -/
theorem outputs_after_exit {t : State} (h : BlockInv t) (hx : t.loop = .exited) :
    ∃ u, step t = .next u ∧ u.out.loopOut = loopCode .exited ∧ u.out.stateOut = t.stable := by
  obtain ⟨hstate, -, hloop, -, -⟩ := registeredOutputs t _ h.step_eq
  exact ⟨_, h.step_eq, hx ▸ hloop, hstate⟩

/-- R39, R120: a run to a tick that exits goes on to EXITED, which the tick after shows. -/
theorem exit_after_run {n : Nat} {s t : State} (h : BlockInv s) (hrun : Sys2Proof.core.run n s = .next t)
    (he : exitsNow t) : ∃ v u : State, Sys2Proof.core.run (n + 1) s = .next v ∧ v.loop = .exited ∧ step v = .next u ∧
      u.out.loopOut = loopCode .exited ∧ u.out.stateOut = v.stable := by
  obtain ⟨v, hstep, hx⟩ := step_of_exitsNow (h.run hrun) he
  have hrun' := run_append_step hrun hstep
  obtain ⟨u, hu, hout⟩ := outputs_after_exit (h.run hrun') hx
  exact ⟨v, u, hrun', hx, hu, hout⟩

/-- Settles O19: at a top the STOP's own tick exits, and past it the next top does; the tick after shows it. -/
theorem exitLatencyAfterStop : Obligations.ExitLatencyAfterStop := by
  unfold Obligations.ExitLatencyAfterStop
  intro s h ha hlife hstop
  have hlt : s.p < s.cfg.pollInterval := h.ranges.1
  by_cases hp : s.p = 0
  · have he : exitsNow s := ⟨ha, hp, by rw [hlife, hstop, lifeTable_stop]⟩
    rw [if_pos hp]
    refine ⟨by omega, fun m hm => ?_, exit_after_run h (run_zero s) he⟩
    obtain rfl := Nat.le_zero.1 hm
    exact ⟨s, run_zero s, ha⟩
  · obtain ⟨t, hrun, he⟩ := run_to_exit h ha hlife hstop hp
    rw [if_neg hp]
    refine ⟨by omega, fun m hm => ?_, exit_after_run h hrun he⟩
    obtain ⟨v, hv, hact, -⟩ := run_to_next_top h ha hp hm
    exact ⟨v, hv, hact⟩

end Sys2Proof.Machine
end

section
/-! SUPPORT. O20: what the host sends does not cut a cycle. -/

namespace Sys2Proof.Machine

open Sys2Proof.Spec

/-! ### Two runs of one cycle -/

/-- No test bench issues words in any tick still to come of a composed block, and past the end of its inputs none does. -/
theorem composed_iff_inputAt {s : State} : Composed s ↔ ∀ n, (inputAt s n).bench = none := by
  constructor
  · intro h n
    unfold inputAt
    cases hn : s.inputs[n]? with
    | none => rw [List.getD_eq_getElem?_getD, hn]; rfl
    | some i => rw [List.getD_eq_getElem?_getD, hn]; exact h i (List.mem_of_getElem? hn)
  · intro h i hi
    obtain ⟨n, hn⟩ := List.mem_iff_getElem?.1 hi
    have hb := h n
    rwa [inputAt, List.getD_eq_getElem?_getD, hn] at hb

section
variable {a b : State} (h : AlikeButHost a b)
include h

/-- R42: within a cycle the invariant does not depend on the host. -/
theorem AlikeButHost.blockInv (ha : BlockInv a) (hact : a.loop = .active) : BlockInv b := by
  have hcomposed : Composed b := composed_iff_inputAt.2 fun n => by
    have hbench := congrArg TickIn.bench (h.inputs n)
    exact hbench.trans (composed_iff_inputAt.1 ha.composed n)
  obtain ⟨⟨-, hlb⟩, -, hrest⟩ := h
  obtain ⟨m, j, c, rfl⟩ : ∃ m j c, b = { a with life := m, inputs := j, out := { a.out with lifeOut := c } } :=
    ⟨_, _, _, hrest⟩
  exact { ha with
    composed := hcomposed
    waiting := fun hw => absurd (hact.symm.trans hw) (by decide)
    active := fun _ => hlb
    exited := fun hx => absurd (hact.symm.trans hx) (by decide) }

/-- R121: past the top, neither of two such states exits, so their ticks leave two such states. -/
theorem AlikeButHost.next_past_top (hp : a.p ≠ 0) :
    AlikeButHost (tick118 (composedUops a) a) (tick118 (composedUops b) b) := by
  have hus : composedUops b = composedUops a := by rw [h.rest]; rfl
  have htop : .uTop ∉ composedUops a := fun hm => hp (uTop_mem_sched.1 (mem_composedUops.1 hm).2)
  rw [hus]
  exact h.next (by simp [htop])

/-- R121: up to the next top, two runs from two such states stay two such states. -/
theorem AlikeButHost.runs_to_next_top (ha : BlockInv a) (hact : a.loop = .active) (hp : a.p ≠ 0) {n : Nat}
    (hn : n ≤ a.cfg.pollInterval - a.p) : ∃ t u : State, Sys2Proof.core.run n a = .next t ∧
      Sys2Proof.core.run n b = .next u ∧ AlikeButHost t u := by
  induction n with
  | zero => exact ⟨a, b, rfl, rfl, h⟩
  | succ n ih =>
    obtain ⟨t, u, hta, hub, htu⟩ := ih (by omega)
    obtain ⟨v, hv, hvact, hvpos⟩ := run_to_next_top ha hact hp (n := n) (by omega)
    obtain rfl := Host.Outcome.next.inj (hta.symm.trans hv)
    have hpos : t.p ≠ 0 := by rw [hvpos, Nat.mod_eq_of_lt (by omega)]; omega
    have ht := ha.run hta
    exact ⟨_, _, run_append_step hta ht.step_eq, run_append_step hub (htu.blockInv ht hvact).step_eq,
      htu.next_past_top hpos⟩

end

/-- R121: inputs that differ in the commands alone, and lives past the start, make two such states. -/
theorem alikeButHost_of_inputs {s : State} {l m : Life} {i j : List TickIn} (hl : l ≠ .idle) (hm : m ≠ .idle)
    (hij : SameButHcmd i j) : AlikeButHost { s with life := l, inputs := i } { s with life := m, inputs := j } where
  begun := ⟨hl, hm⟩
  inputs n := by
    have hn := congrArg (·.getD n TickIn.quiet) hij
    have hmap : ∀ x : List TickIn, (x.map fun y => { y with hcmd := 0b00#2 }).getD n TickIn.quiet =
        { x.getD n TickIn.quiet with hcmd := 0b00#2 } := fun x => List.getD_map x TickIn.quiet _
    exact (hmap j).symm.trans (hn.symm.trans (hmap i))
  rest := rfl

/-! ### The lines at a top -/

/-- R42, R87: both generators are idle at every top. -/
theorem BlockInv.idle_top {s : State} (h : BlockInv s) (ha : s.loop = .active) (hp : s.p = 0) :
    s.lgBusy = false ∧ s.cgBusy = false := by
  refine ⟨h.lgBusy_top ha hp, ?_⟩
  rw [← Bool.not_eq_true, h.cgBusy_iff]
  exact fun ⟨_, hlo, _⟩ => by omega

/-- R80, R121: a tick that exits drives both lines at their idle levels. -/
theorem idle_lines_at_exit {s : State} (h : BlockInv s) (he : exitsNow s) :
    (tick118 (composedUops s) s).out.latchOut = false ∧ (tick118 (composedUops s) s).out.clockOut = true := by
  have ht : 2 ≤ s.cfg.t0 := (positions_order h.legal).1
  rw [← Bool.not_eq_true, latchOut_tick118 h, ← Bool.not_eq_false, clockOut_tick118 h]
  exact ⟨fun ⟨_, _, hne⟩ => hne he, fun ⟨_, hlo, _⟩ => by have := he.2.1; omega⟩

/-- Settles O20: past the top nothing in a tick depends on the host, and at a top no pulse and no train is under way. -/
theorem cycleIsNeverCut : Obligations.CycleIsNeverCut := by
  unfold Obligations.CycleIsNeverCut
  refine ⟨fun s l m w v h ha hp hl hm => ?_, fun s l m i j n h ha hp hl hm hij hn => ?_,
    fun s h => h.idle_top, fun s t h he hstep => ?_⟩
  · have hw := alikeButHost_withHcmd (h.active ha) hl w
    have hv := alikeButHost_withHcmd (h.active ha) hm v
    have hrest := ((hw.symm.trans hv).next_past_top hp).rest
    exact ⟨_, _, (hw.blockInv h ha).step_eq, (hv.blockInv h ha).step_eq, rfl, rfl, hrest⟩
  · have hs := alikeButHost_of_inputs (s := s) (h.active ha) hl (rfl : SameButHcmd i i)
    have hinv := hs.blockInv h ha
    obtain ⟨t, u, ht, hu, htu⟩ := (alikeButHost_of_inputs hl hm hij).runs_to_next_top hinv ha hp hn
    obtain ⟨v, hv, hact, hpos⟩ := run_to_next_top hinv ha hp hn
    obtain rfl := Host.Outcome.next.inj (ht.symm.trans hv)
    exact ⟨t, u, ht, hu, hact, hpos, htu.rest⟩
  · rw [step_composed (curIn_bench_of_composed h.composed) hstep]
    exact idle_lines_at_exit h he

end Sys2Proof.Machine
end

section
/-! SUPPORT. O15: the reserved command is a NOP. -/

namespace Sys2Proof.Machine

open Sys2Proof.Spec

/-- R118: a tick reads its command in phase H alone, so two commands that do the same there give the same step. -/
theorem step_withHcmd_congr {s : State} {w v : HcmdWord} (hlife : lifeTable s.life w = lifeTable s.life v)
    (hstart : startAccepted (withHcmd w s) ↔ startAccepted (withHcmd v s)) :
    step (withHcmd w s) = step (withHcmd v s) := by
  refine step_congr rfl Iff.rfl rfl fun us => ?_
  have htable : lifeTable (withHcmd w s).life (curIn (withHcmd w s)).hcmd =
      lifeTable (withHcmd v s).life (curIn (withHcmd v s)).hcmd := hlife
  simp only [tick118, hstart, htable]
  rfl

/-- R126: NOP leaves the lifecycle where it is. -/
theorem lifeTable_nop (l : Life) : lifeTable l 0b00#2 = l := by cases l <;> rfl

/-- R127: so does the reserved command. -/
theorem lifeTable_reserved (l : Life) : lifeTable l 0b11#2 = l := by cases l <;> rfl

/-- Settles O15: neither command is a START, and neither moves the lifecycle. -/
theorem reservedCommandIsNop : Obligations.ReservedCommandIsNop := by
  unfold Obligations.ReservedCommandIsNop
  refine fun s => ⟨step_withHcmd_congr ?_ ?_, rfl, fun t hrun hstep => ?_⟩
  · rw [lifeTable_reserved, lifeTable_nop]
  · have hreserved : (0b11#2 : HcmdWord) ≠ 0b01#2 := by decide
    have hnop : (0b00#2 : HcmdWord) ≠ 0b01#2 := by decide
    exact iff_of_false (fun h => hreserved h.1) fun h => hnop h.1
  · obtain ⟨-, -, us, -, rfl⟩ := step_eq_next_iff.1 hstep
    rw [tick118_life]
    exact (lifeTable_reserved s.life).trans hrun

end Sys2Proof.Machine
end

section
/-! SUPPORT. O22: a block that gets no START. -/

namespace Sys2Proof.Machine

open Sys2Proof.Spec

/-- What the inputs still to come and a quiet tick have in common, the current tick has. -/
theorem curIn_of_inputs {P : TickIn → Prop} {s : State} (h : ∀ i ∈ s.inputs, P i) (hquiet : P .quiet) :
    P (curIn s) := by
  unfold curIn
  cases hi : s.inputs with
  | nil => exact hquiet
  | cons i is => exact h i (by simp [hi])

/-- R126: the block as constructed with `stable = v`, and no START to come: its lifecycle, its generators and its
outputs at their reset values. -/
structure IdleSinceReset (v : Word16) (s : State) : Prop where
  composed : Composed s
  noStart  : ∀ i ∈ s.inputs, i.hcmd ≠ 0b01#2
  idle     : s.life = .idle
  waiting  : s.loop = .waiting
  atZero   : s.p = 0
  latch    : s.lgBusy = false
  clock    : s.cgBusy = false
  stable   : s.stable = v
  stateOut : s.out.stateOut = v
  latchOut : s.out.latchOut = false
  clockOut : s.out.clockOut = true

/-- R150, R151: construction leaves such a state, before any inputs without a START. -/
theorem idleSinceReset_initial {c : Params} {l : List TickIn}
    (hcomposed : Composed { State.initial c with inputs := l }) (hstart : ∀ i ∈ l, i.hcmd ≠ 0b01#2) :
    IdleSinceReset c.stableReset { State.initial c with inputs := l } where
  composed := hcomposed
  noStart := hstart
  idle := rfl
  waiting := rfl
  atZero := rfl
  latch := rfl
  clock := rfl
  stable := rfl
  stateOut := rfl
  latchOut := rfl
  clockOut := rfl

/-- R126: no START, so the loop stays in WAITING; it issues no micro-operation there, so no unit does anything. -/
theorem idleSinceReset_step {v : Word16} {s t : State} (h : IdleSinceReset v s) (hstep : step s = .next t) :
    IdleSinceReset v t := by
  have hne : (curIn s).hcmd ≠ 0b01#2 := curIn_of_inputs h.noStart (by decide)
  have hstart : ¬ startAccepted s := fun hs => hne hs.1
  have hactive : s.loop ≠ .active := by simp [h.waiting]
  have hnone : ∀ i, i ∉ issuedUops (composedUops s) s := fun i hi => hactive (mem_issued_composed.1 hi).2.1
  obtain ⟨hlatch, hclock⟩ := idle_tick118 hnone h.latch h.clock
  rw [step_composed (curIn_bench_of_composed h.composed) hstep]
  exact {
    composed := fun i hi => h.composed i (List.mem_of_mem_tail hi)
    noStart := fun i hi => h.noStart i (List.mem_of_mem_tail hi)
    idle := (lifeTable_facts s.life (curIn s).hcmd).1 h.idle hne
    waiting := by rw [tick118_loop, if_neg hstart, if_neg fun ha => hactive ha.1, h.waiting]
    atZero := by rw [tick118_p, if_neg hstart, if_neg fun ha => hactive ha.1, if_neg hactive]
    latch := hlatch
    clock := hclock
    stable := by rw [tick118_stable, if_neg fun ha => hnone _ ha.1, h.stable]
    stateOut := h.stable
    latchOut := by simp [tick118_latchOut, h.latch, hnone]
    clockOut := by simp [tick118_clockOut, h.clock, hnone, clockLevel] }

/-- Settles O22: construction leaves such a state, and every step of a run keeps it. -/
theorem withoutStartTheBlockStaysIdle : Obligations.WithoutStartTheBlockStaysIdle := by
  unfold Obligations.WithoutStartTheBlockStaysIdle
  refine ⟨fun _ => rfl, fun c l n t _ hcomposed hstart hrun => ?_⟩
  have h : IdleSinceReset c.stableReset t :=
    run_keeps (fun _ _ => idleSinceReset_step) (idleSinceReset_initial hcomposed hstart) hrun
  exact ⟨h.idle, h.waiting, h.atZero, h.stable, h.stateOut, h.latchOut, h.clockOut⟩

end Sys2Proof.Machine
end

section
/-! SUPPORT. O3: nothing faults, and what the block is asked to do completes. -/

namespace Sys2Proof.Machine

/-! ### Operations -/

/-- R133: an operation completes or refuses a wire the block does not have; it never faults. -/
theorem exec_ne_fault (i : Instr) (s : State) (f : Fault) : exec i s ≠ .fault f := by
  obtain ⟨t, he⟩ | ⟨n, -, -, he⟩ := exec_cases i s <;> simp [he]

/-- R65, R133: a well-formed operation takes from no missing wire, so it completes. -/
theorem exec_of_wellFormed {i : Instr} {s : State} (h : i.wellFormed s.slots.length = true) :
    ∃ t, exec i s = .next t := by
  obtain ht | ⟨n, rfl, hn, -⟩ := exec_cases i s
  · exact ht
  · exact absurd (of_decide_eq_true h) (Nat.not_lt.mpr hn)

/-! ### Ticks -/

/-- R133: a step completes, or it refuses for the parameters, the ranges or the UOP words; it never faults. -/
theorem step_ne_fault (s : State) (f : Fault) : step s ≠ .fault f := by
  obtain ⟨-, hs⟩ | ⟨-, -, hs⟩ | ⟨hc, hr, hs⟩ := step_cases s
  · simp [hs]
  · simp [hs]
  · cases hdec : decodeWords s.cfg.nPorts (uopWords s) with
    | error r => simp [hs, tickOnce_of_error hdec]
    | ok us =>
      cases hclash : unitClash us with
      | true => simp [hs, tickOnce_of_clash hdec hclash]
      | false => simp [step_eq_tick118 hc hr (tickUops_of_decode hdec hclash)]

/-- Settles O3: operations by their wires, the composed tick by O12, whose `Step` answers for any inputs. -/
theorem everyComposedTickCompletes : Obligations.EveryComposedTickCompletes := by
  unfold Obligations.EveryComposedTickCompletes
  exact ⟨step_ne_fault, exec_ne_fault, fun _ _ => exec_of_wellFormed,
    fun s hc hr hb => ⟨_, stepIsTheTickOfTheSpec s hc hr hb⟩⟩

end Sys2Proof.Machine
end

section
/-! SUPPORT. O1: the three outcomes of construction. -/

namespace Sys2Proof.Machine

/-- R137: a legal set whose lines are not configured gives no state, but the fault. -/
theorem construct_fault {c : Params} (h : c.Legal) : construct c false = .fault .initFailure := by
  obtain ⟨hn, -⟩ | ⟨-, -, hs⟩ | ⟨-, hf, -⟩ := construct_cases c false
  · exact absurd h hn
  · exact hs
  · exact absurd hf (by decide)

/-- R138: there is one fault, and its code is 1. -/
theorem fault_eq_initFailure (f : Fault) : faultCode f = 1 ∧ f = .initFailure := by
  cases f
  exact ⟨rfl, rfl⟩

/-- Settles O1: a lemma for each of the outcomes, and one for the code. -/
theorem constructionOutcome : Obligations.ConstructionOutcome := by
  unfold Obligations.ConstructionOutcome
  exact ⟨fun _ ok h => construct_refuses_illegal h ok, fun _ => construct_fault, fun _ => construct_legal,
    fault_eq_initFailure⟩

end Sys2Proof.Machine
end

section
/-! SUPPORT. O41: how often `stable` can change. -/

namespace Sys2Proof.Machine

open Sys2Proof.Spec

/-- R99: `vote_ctr` after the tick. -/
theorem tick118_voteCtr (us : List Instr) (s : State) : (tick118 us s).voteCtr =
    if .uAccept ∈ issuedUops us s then voteNext s.voteCtr else s.voteCtr := by
  simp only [tick118, issuedUops, uopsAfterC, voteNext, decide_eq_true_eq]

/-- R114, R116: the composed block issues U_ACCEPT at its own position of a cycle and nowhere else; that position is no
top, so no exit drops it. -/
theorem uAccept_mem_issued {s : State} (hc : s.cfg.Legal) :
    .uAccept ∈ issuedUops (composedUops s) s ↔ s.loop = .active ∧ s.p = s.cfg.acceptPos := by
  rw [mem_issued_composed, uAccept_mem_sched]
  refine and_iff_right_of_imp fun ⟨_, hp⟩ ⟨_, htop, _⟩ => ?_
  have hpos := positions_order hc
  omega

/-- R99: a call of U_ACCEPT counts the frame, where it is not the third of its window. -/
theorem voteNext_val {c : Fin 3} (h : c ≠ 2) : (voteNext c).val = c.val + 1 := by
  revert c; decide

/-- R99: only the second call of a window leaves the third to come. -/
theorem eq_one_of_voteNext {c : Fin 3} (h : voteNext c = 2) : c = 1 := by
  revert c; decide

/-- R104, R160: the block `n` ticks after a tick that left `stable = v`. In a cycle, its position counts the ticks from
the ACCEPT position, and `vote_ctr` the whole cycles. -/
structure SinceUpdate (v : Word16) (n : Nat) (u : State) : Prop where
  inv   : BlockInv u
  begun : u.life ≠ .idle
  kept  : u.stable = v
  place : u.loop = .active →
    u.p = (u.cfg.acceptPos + (n + 1)) % u.cfg.pollInterval ∧ u.voteCtr.val = n / u.cfg.pollInterval

/-- R31, R99: a tick that changes `stable` closes a window, at the ACCEPT position. -/
theorem sinceUpdate_of_change {s t : State} (h : BlockInv s) (hstep : step s = .next t) (hne : t.stable ≠ s.stable) :
    SinceUpdate t.stable 0 t := by
  have hb := curIn_bench_of_composed h.composed
  obtain ⟨ha, hp, hvote, -⟩ := stableMutatedOnlyByAgreement s t h.legal h.ranges hb hstep hne
  refine ⟨everyStepKeepsTheInvariant s t h hstep, life_ne_idle_step (h.active ha) hstep, rfl, fun hact => ?_⟩
  obtain ⟨-, hpos⟩ := active_before_active h (h.active ha) hstep hact
  rw [step_composed hb hstep] at hpos ⊢
  refine ⟨by rw [hpos, hp]; rfl, ?_⟩
  rw [tick118_voteCtr, if_pos ((uAccept_mem_issued h.legal).2 ⟨ha, hp⟩), hvote, Nat.zero_div]
  rfl

/-- R117: in a cycle, the ACCEPT position comes round once every `POLL_INTERVAL` ticks. -/
theorem SinceUpdate.accept_iff {v : Word16} {n : Nat} {u : State} (h : SinceUpdate v n u) (ha : u.loop = .active) :
    u.p = u.cfg.acceptPos ↔ u.cfg.pollInterval ∣ n + 1 := by
  have hlt : u.cfg.acceptPos < u.cfg.pollInterval := by
    have hpos := positions_order h.inv.legal
    omega
  rw [(h.place ha).1, ← Nat.add_modEq_left_iff (a := u.cfg.acceptPos), Nat.ModEq, Nat.mod_eq_of_lt hlt]

/-- R104, R160: short of three cycles, a call of U_ACCEPT is not the third of its window, so it changes nothing. -/
theorem SinceUpdate.next {v : Word16} {n : Nat} {u w : State} (h : SinceUpdate v n u)
    (hn : n + 1 < 3 * u.cfg.pollInterval) (hstep : step u = .next w) : SinceUpdate v (n + 1) w := by
  have hb := curIn_bench_of_composed h.inv.composed
  have hopen : u.loop = .active → u.p = u.cfg.acceptPos → u.voteCtr ≠ 2 := by
    intro ha hp hvote
    have hcount : (n + 1) / u.cfg.pollInterval = n / u.cfg.pollInterval + 1 :=
      Nat.succ_div_of_dvd ((h.accept_iff ha).1 hp)
    have hthree : (n + 1) / u.cfg.pollInterval < 3 := Nat.div_lt_of_lt_mul (by rwa [Nat.mul_comm])
    have hctr := congrArg Fin.val hvote
    rw [(h.place ha).2, Fin.val_two] at hctr
    omega
  refine ⟨everyStepKeepsTheInvariant u w h.inv hstep, life_ne_idle_step h.begun hstep, ?_, fun hact => ?_⟩
  · by_contra hne
    obtain ⟨ha, hp, hvote, -⟩ := stableMutatedOnlyByAgreement u w h.inv.legal h.inv.ranges hb hstep (h.kept ▸ hne)
    exact hopen ha hp hvote
  · obtain ⟨ha, hpos⟩ := active_before_active h.inv h.begun hstep hact
    obtain ⟨hp, hvote⟩ := h.place ha
    rw [step_composed hb hstep] at hpos ⊢
    refine ⟨by rw [hpos, hp, Nat.mod_add_mod, tick118_cfg, Nat.add_assoc], ?_⟩
    rw [tick118_voteCtr, tick118_cfg]
    by_cases hacc : u.p = u.cfg.acceptPos
    · rw [if_pos ((uAccept_mem_issued h.inv.legal).2 ⟨ha, hacc⟩), voteNext_val (hopen ha hacc), hvote,
        Nat.succ_div_of_dvd ((h.accept_iff ha).1 hacc)]
    · rw [if_neg fun hm => hacc ((uAccept_mem_issued h.inv.legal).1 hm).2, hvote,
        Nat.succ_div_of_not_dvd fun hd => hacc ((h.accept_iff ha).2 hd)]

/-- R160: over a run of less than three cycles. -/
theorem SinceUpdate.run {t u : State} {v : Word16} {n : Nat} (h : SinceUpdate v 0 t) (hn : n < 3 * t.cfg.pollInterval)
    (hrun : Sys2Proof.core.run n t = .next u) : SinceUpdate v n u := by
  induction n generalizing u with
  | zero => cases hrun; exact h
  | succ n ih =>
    obtain ⟨w, hw, hstep⟩ := exists_last_step hrun
    exact (ih (by omega) hw).next (by rwa [run_cfg hw]) hstep

/-- Settles O41: the tick closes a window, and the next one takes three calls of U_ACCEPT, one each cycle. -/
theorem stableUpdateRate : Obligations.StableUpdateRate := by
  unfold Obligations.StableUpdateRate
  intro s t n u h hstep hne hn hrun
  rw [← run_cfg (n := 1) (run_append_step rfl hstep)] at hn
  exact ((sinceUpdate_of_change h hstep hne).run hn hrun).kept

end Sys2Proof.Machine
end

section
/-! SUPPORT. O2: the reset state, which meets the invariant of the composed block. -/

namespace Sys2Proof.Machine

/-- R137, R150: an instance that is constructed at all is in its set's initial state. -/
theorem eq_initial_of_construct {c : Params} {ok : Bool} {s : State} (h : construct c ok = .next s) :
    s = State.initial c := by
  obtain ⟨-, hs⟩ | ⟨-, -, hs⟩ | ⟨-, -, hs⟩ := construct_cases c ok
  · rw [hs] at h; cases h
  · rw [hs] at h; cases h
  · rw [hs] at h; cases h; rfl

/-- R151: every mailbox is empty, and every `tx_valid` is low. -/
theorem initial_ports (c : Params) :
    (State.initial c).slots.length = c.nPorts ∧
      (∀ x ∈ (State.initial c).slots, x.valid = false ∧ x.frame = 0x00000#17) ∧
      (State.initial c).out.txValid.length = c.nPorts ∧ ∀ v ∈ (State.initial c).out.txValid, v = false := by
  refine ⟨List.length_replicate, fun x hx => ?_, List.length_replicate, fun v hv => List.eq_of_mem_replicate hv⟩
  rw [List.eq_of_mem_replicate hx]
  exact ⟨rfl, rfl⟩

/-- R42, R151: an instance of a legal set begins in the invariant, whatever composed inputs it is given. -/
theorem blockInv_initial {c : Params} {l : List TickIn} (hc : c.Legal)
    (hl : Composed { State.initial c with inputs := l }) : BlockInv { State.initial c with inputs := l } := by
  have hpoll : 0 < c.pollInterval := by have hpos := positions_order hc; omega
  have hlatch : 0 < c.latchWidth := hc.1
  have hperiod : 0 < c.clkPeriod := Nat.zero_lt_of_lt hc.2.2.1
  obtain ⟨hlen, hslots, -, -⟩ := initial_ports c
  have hframe : ∀ y ∈ (State.initial c).slots, y.frame = 0x00000#17 := fun y hy => (hslots y hy).2
  exact {
    legal := hc
    ranges := ⟨hpoll, fun _ => rfl, hlatch, fun _ => rfl, Nat.mul_pos (pulseCount_pos _) hperiod, fun _ => rfl, hlen,
      fun y hy => by rw [hframe y hy]; rfl⟩
    composed := hl
    waiting := fun _ => rfl
    active := nofun
    exited := nofun
    quiet := fun _ => ⟨rfl, rfl⟩
    latchPos := nofun
    latchTicks := nofun
    clockPos := nofun
    clockTicks := nofun
    count16 := rfl
    sameFrames := fun y hy z hz => (hframe y hy).trans (hframe z hz).symm
    combClear := ⟨rfl, rfl⟩ }

/-- Settles O2: construction yields the initial state, whose elements are written down as R151's table has them. -/
theorem resetStateOfEveryInstance : Obligations.ResetStateOfEveryInstance := by
  unfold Obligations.ResetStateOfEveryInstance
  intro c s hs
  obtain rfl := eq_initial_of_construct hs
  obtain ⟨hlen, hslots, hvlen, hvalid⟩ := initial_ports c
  exact ⟨rfl, rfl, rfl, rfl, rfl, rfl, rfl, rfl, rfl, rfl, rfl, rfl, rfl, rfl, rfl, rfl, rfl, rfl, rfl, hlen, hslots,
    rfl, rfl, rfl, rfl, rfl, hvlen, hvalid⟩

end Sys2Proof.Machine
end

section
/-! SUPPORT. O42: the contents of the sampler and the window that the block overwrites before it reads them. -/

namespace Sys2Proof.Machine

open Sys2Proof.Spec

/-! ### The sampler and the window in the spec's `Step` -/

section
variable (us : List Instr) (s : State)

/-- R92: `smp_a` after the tick. -/
theorem tick118_smpA : (tick118 us s).smpA =
    if (issuedUops us s).any isSmpa = true then readLine s else s.smpA := rfl

/-- R93: `smp_frame` after the tick. -/
theorem tick118_smpFrame : (tick118 us s).smpFrame =
    ((issuedUops us s).findSome? smpbIndex).elim s.smpFrame
      fun k => setFrameBit s.smpFrame k (s.smpA && readLine s) := by
  cases h : (issuedUops us s).findSome? smpbIndex with
  | none => simp only [issuedUops, uopsAfterC] at h; simp only [tick118, h, Option.elim]
  | some k => simp only [issuedUops, uopsAfterC] at h; simp only [tick118, h, Option.elim]

/-- R99: the window after the tick. -/
theorem tick118_win0 : (tick118 us s).win0 =
    if .uAccept ∈ issuedUops us s ∧ s.voteCtr = 0 then s.smpFrame else s.win0 := by
  simp only [tick118, issuedUops, uopsAfterC, decide_eq_true_eq]

theorem tick118_win1 : (tick118 us s).win1 =
    if .uAccept ∈ issuedUops us s ∧ s.voteCtr = 1 then s.smpFrame else s.win1 := by
  simp only [tick118, issuedUops, uopsAfterC, decide_eq_true_eq]

/-- R32, R99: `last_agree` after the tick. -/
theorem tick118_lastAgree : (tick118 us s).lastAgree =
    if .uAccept ∈ issuedUops us s then
      decide (s.voteCtr = 2 ∧ s.win0 = s.win1 ∧ s.win1 = s.smpFrame) else s.lastAgree := by
  simp only [tick118, issuedUops, uopsAfterC, decide_eq_true_eq, Bool.decide_and]

end

/-! ### The reads of a tick of the composed block -/

section
variable {s : State} (hc : s.cfg.Legal)
include hc

/-- R116: every read lies past the top, so no exit drops it. -/
theorem not_exitsNow_at_read {k : BitIndex} (hp : s.p = s.cfg.readA k.toNat ∨ s.p = s.cfg.readB k.toNat) :
    ¬ exitsNow s := by
  obtain ⟨hA, hAB, -⟩ := read_order hc k.isLt
  have hpos := positions_order hc
  rintro ⟨-, htop, -⟩
  omega

/-- R114, R116: the first reads that the composed block issues. -/
theorem uSmpa_mem_issued {k : BitIndex} :
    .uSmpa k ∈ issuedUops (composedUops s) s ↔ s.loop = .active ∧ s.p = s.cfg.readA k.toNat := by
  simp only [mem_issued_composed, mem_sched_iff, reduceCtorEq, false_and, Instr.uSmpa.injEq, exists_eq_left', or_false,
    exists_false, false_or]
  exact and_iff_right_of_imp fun h => not_exitsNow_at_read hc (.inl h.2)

/-- R114, R116: the second reads that the composed block issues. -/
theorem uSmpb_mem_issued {k : BitIndex} :
    .uSmpb k ∈ issuedUops (composedUops s) s ↔ s.loop = .active ∧ s.p = s.cfg.readB k.toNat := by
  simp only [mem_issued_composed, mem_sched_iff, reduceCtorEq, false_and, Instr.uSmpb.injEq, exists_eq_left', or_false,
    exists_false, false_or]
  exact and_iff_right_of_imp fun h => not_exitsNow_at_read hc (.inr h.2)

end

/-- R116, R117: a position of a cycle past its top comes from the one before it. -/
theorem position_before {s : State} (h : BlockInv s) (hact : (tick118 (composedUops s) s).loop = .active)
    (hp : (tick118 (composedUops s) s).p ≠ 0) :
    s.loop = .active ∧ (tick118 (composedUops s) s).p = s.p + 1 := by
  obtain ⟨n, hn⟩ := Nat.exists_eq_succ_of_ne_zero hp
  have hlt : (tick118 (composedUops s) s).p < s.cfg.pollInterval := (rangesOk_tick118 h.legal h.ranges).1
  obtain ⟨ha, -, hpos⟩ := (position_succ_iff h (n := n) (by omega)).1 ⟨hact, hn⟩
  exact ⟨ha, by omega⟩

/-- A set in which the search finds a second read holds it. -/
theorem uSmpb_mem_of_findSome? {us : List Instr} {k : BitIndex} (h : us.findSome? smpbIndex = some k) :
    .uSmpb k ∈ us := by
  obtain ⟨i, hi, hk⟩ := List.exists_of_findSome?_eq_some h
  exact smpbIndex_eq_some.1 hk ▸ hi

/-- A set in which the search finds no second read holds none. -/
theorem uSmpb_notMem_of_findSome? {us : List Instr} {k : BitIndex} (h : us.findSome? smpbIndex = none) :
    .uSmpb k ∉ us :=
  fun hm => absurd (List.findSome?_eq_none_iff.1 h _ hm) (by simp [smpbIndex])

end Sys2Proof.Machine

namespace Sys2Proof.Spec

open Sys2Proof.Machine

/-! ### What two such states share -/

section
variable {a b : State} (h : SamplerAlike a b)
include h

/-- R42: the invariant says nothing of the sampler and the window. -/
theorem SamplerAlike.blockInv (ha : BlockInv a) : BlockInv b := by
  rw [h.rest]
  exact { ha with }

/-- What a tick makes of the rest of the state: its micro-operations, the level it reads, the place in the window. -/
theorem SamplerAlike.shared : composedUops b = composedUops a ∧ (∀ us, issuedUops us b = issuedUops us a) ∧
    readLine b = readLine a ∧ b.voteCtr = a.voteCtr ∧ b.stable = a.stable ∧ b.lastAgree = a.lastAgree := by
  rw [h.rest]
  exact ⟨rfl, fun _ => rfl, rfl, rfl, rfl, rfl⟩

/-- R93: at a second read, `smp_a` holds the level of the first. -/
theorem SamplerAlike.smpA_at_second_read (hc : a.cfg.Legal) (ha : a.loop = .active) {k : BitIndex}
    (hp : a.p = a.cfg.readB k.toNat) : a.smpA = b.smpA := by
  obtain ⟨-, hAB, -⟩ := read_order hc k.isLt
  exact h.reads ha k.toNat k.isLt (by omega) hp.le

/-- R94, R116: at a U_ACCEPT, every bit of the frame is written. -/
theorem SamplerAlike.frame_at_accept (hc : a.cfg.Legal) (hacc : .uAccept ∈ issuedUops (composedUops a) a) :
    a.smpFrame = b.smpFrame := by
  obtain ⟨ha, hp⟩ := (uAccept_mem_issued hc).1 hacc
  refine BitVec.eq_of_getLsbD_eq fun k hk => h.bits ha k hk ?_
  obtain ⟨-, -, -, hB⟩ := read_order hc hk
  omega

/-- R99: at a U_ACCEPT that is the third of its window, all it compares is written. -/
theorem SamplerAlike.vote_at_accept (hc : a.cfg.Legal) (hacc : .uAccept ∈ issuedUops (composedUops a) a) :
    (b.voteCtr = 2 ∧ b.win0 = b.win1 ∧ b.win1 = b.smpFrame) ↔
      a.voteCtr = 2 ∧ a.win0 = a.win1 ∧ a.win1 = a.smpFrame := by
  obtain ⟨-, -, -, hvote, -⟩ := h.shared
  rw [hvote]
  refine and_congr_right fun htwo => ?_
  rw [h.first (by simp [htwo]), h.second htwo, h.frame_at_accept hc hacc]

/-! ### One step of both (R44) -/

/-- R31, R32, R99: the vote comes out the same. -/
theorem SamplerAlike.stable_tick118 (hc : a.cfg.Legal) :
    (tick118 (composedUops a) b).stable = (tick118 (composedUops a) a).stable ∧
      (tick118 (composedUops a) b).lastAgree = (tick118 (composedUops a) a).lastAgree := by
  obtain ⟨-, hissued, -, -, hstable, hagree⟩ := h.shared
  rw [tick118_stable, tick118_stable, tick118_lastAgree, tick118_lastAgree, hissued, hstable, hagree]
  by_cases hacc : .uAccept ∈ issuedUops (composedUops a) a
  · simp only [hacc, true_and, h.vote_at_accept hc hacc, h.frame_at_accept hc hacc, if_true]
  · simp [hacc]

/-- R118: a tick looks at the sampler and the window for themselves and for the vote alone. -/
theorem SamplerAlike.rest_tick118 (hc : a.cfg.Legal) :
    let t := tick118 (composedUops a) a
    let u := tick118 (composedUops a) b
    u = withSampler u.smpA u.smpFrame u.win0 u.win1 u.win2 t := by
  obtain ⟨hstable, hagree⟩ := h.stable_tick118 hc
  intro t u
  have hshared : u = { withSampler u.smpA u.smpFrame u.win0 u.win1 u.win2 t with
      stable := u.stable, lastAgree := u.lastAgree } := by
    obtain ⟨x, f, w0, w1, w2, rfl⟩ : ∃ x f w0 w1 w2, b = withSampler x f w0 w1 w2 a := ⟨_, _, _, _, _, h.rest⟩
    rfl
  rw [hstable, hagree] at hshared
  exact hshared

/-- R92: a first read leaves the level of the line, which is the same, and it stands up to the second read. -/
theorem SamplerAlike.reads_tick118 (ha : BlockInv a) {k : BitIndex}
    (hact : (tick118 (composedUops a) a).loop = .active)
    (hA : a.cfg.readA k.toNat < (tick118 (composedUops a) a).p)
    (hB : (tick118 (composedUops a) a).p ≤ a.cfg.readB k.toNat) :
    (tick118 (composedUops a) a).smpA = (tick118 (composedUops a) b).smpA := by
  obtain ⟨hloop, hp⟩ := position_before ha hact (by omega)
  obtain ⟨-, hissued, hline, -⟩ := h.shared
  rw [tick118_smpA, tick118_smpA, hissued, hline]
  split
  · rfl
  · next hnone =>
    have hne : a.p ≠ a.cfg.readA k.toNat := fun he =>
      hnone <| (any_isSmpa _).2 ⟨k, (uSmpa_mem_issued ha.legal).2 ⟨hloop, he⟩⟩
    exact h.reads hloop k.toNat k.isLt (by omega) (by omega)

/-- R93: a second read writes the same bit with the same value, and the bits before it stand. -/
theorem SamplerAlike.bits_tick118 (ha : BlockInv a) {k : BitIndex}
    (hact : (tick118 (composedUops a) a).loop = .active) (hB : a.cfg.readB k.toNat < (tick118 (composedUops a) a).p) :
    (tick118 (composedUops a) a).smpFrame.getLsbD k.toNat = (tick118 (composedUops a) b).smpFrame.getLsbD k.toNat := by
  obtain ⟨hloop, hp⟩ := position_before ha hact (by omega)
  obtain ⟨-, hissued, hline, -⟩ := h.shared
  rw [tick118_smpFrame, tick118_smpFrame, hissued, hline]
  cases hfind : (issuedUops (composedUops a) a).findSome? smpbIndex with
  | none =>
    have hne : a.p ≠ a.cfg.readB k.toNat := fun he =>
      uSmpb_notMem_of_findSome? hfind ((uSmpb_mem_issued ha.legal).2 ⟨hloop, he⟩)
    exact h.bits hloop k.toNat k.isLt (by omega)
  | some j =>
    have hj : a.p = a.cfg.readB j.toNat := ((uSmpb_mem_issued ha.legal).1 (uSmpb_mem_of_findSome? hfind)).2
    simp only [Option.elim, setFrameBit_getLsbD _ _ _ _ k.isLt, h.smpA_at_second_read ha.legal hloop hj]
    split
    · rfl
    · next hne =>
      have hother : a.p ≠ a.cfg.readB k.toNat := fun he => hne (readB_inj ha.legal _ _ (he.symm.trans hj))
      exact h.bits hloop k.toNat k.isLt (by omega)

/-- R99: the places of the window that are written stay so, and a place is written with the frame, which is the same. -/
theorem SamplerAlike.window_tick118 (hc : a.cfg.Legal) :
    ((tick118 (composedUops a) a).voteCtr ≠ 0 →
      (tick118 (composedUops a) a).win0 = (tick118 (composedUops a) b).win0) ∧
    ((tick118 (composedUops a) a).voteCtr = 2 →
      (tick118 (composedUops a) a).win1 = (tick118 (composedUops a) b).win1) := by
  obtain ⟨-, hissued, -, hvote, -⟩ := h.shared
  simp only [tick118_voteCtr, tick118_win0, tick118_win1, hissued, hvote]
  by_cases hacc : .uAccept ∈ issuedUops (composedUops a) a
  · have hframe := h.frame_at_accept hc hacc
    simp only [hacc, true_and, if_true, hframe]
    refine ⟨fun _ => ?_, fun htwo => by simp [eq_one_of_voteNext htwo]⟩
    split
    · rfl
    · next hne => exact h.first hne
  · simpa only [hacc, false_and, if_false] using ⟨h.first, h.second⟩

/-- R44: the tick leaves two such states again. -/
theorem SamplerAlike.next (ha : BlockInv a) :
    SamplerAlike (tick118 (composedUops a) a) (tick118 (composedUops b) b) := by
  rw [h.shared.1]
  obtain ⟨hfirst, hsecond⟩ := h.window_tick118 ha.legal
  exact {
    rest := h.rest_tick118 ha.legal
    reads := fun hact => forall_lt_16_iff.2 fun _ => h.reads_tick118 ha hact
    bits := fun hact => forall_lt_16_iff.2 fun _ => h.bits_tick118 ha hact
    first := hfirst
    second := hsecond }

end

/-! ### Runs from construction (R152) -/

/-- R44: with other reset contents, the block starts in such a state: nothing is read in WAITING, and the window is
empty. -/
theorem samplerAlike_initial (c : Params) (l : List TickIn) (x : Bool) (f w0 w1 w2 : Word16) :
    SamplerAlike { State.initial c with inputs := l }
      (withSampler x f w0 w1 w2 { State.initial c with inputs := l }) where
  rest := rfl
  reads := nofun
  bits := nofun
  first := fun h => absurd rfl h
  second := nofun

/-- R44: two runs from two such states stay two such states. -/
theorem SamplerAlike.run {a b t u : State} (h : SamplerAlike a b) (ha : BlockInv a) {n : Nat}
    (hrun : Sys2Proof.core.run n a = .next t) (hrun' : Sys2Proof.core.run n b = .next u) : SamplerAlike t u := by
  induction n generalizing t u with
  | zero => cases hrun; cases hrun'; exact h
  | succ n ih =>
    obtain ⟨v, hv, hstep⟩ := exists_last_step hrun
    obtain ⟨w, hw, hstep'⟩ := exists_last_step hrun'
    have hvw := ih hv hw
    have hinv := ha.run hv
    rw [hinv.step_eq] at hstep
    rw [(hvw.blockInv hinv).step_eq] at hstep'
    cases hstep
    cases hstep'
    exact hvw.next hinv

/-- Settles O42: the runs begin in states that differ only in what is never read, and every step keeps that. -/
theorem samplerResetValuesAreNeverObserved : Obligations.SamplerResetValuesAreNeverObserved := by
  unfold Obligations.SamplerResetValuesAreNeverObserved
  intro c l n x f w0 w1 w2 t u hc hl hrun hrun'
  have h := (samplerAlike_initial c l x f w0 w1 w2).run (blockInv_initial hc hl) hrun hrun'
  rw [h.rest]
  exact ⟨rfl, rfl, rfl⟩

end Sys2Proof.Spec
end

section
/-! SUPPORT. O55: one step of two states that differ in unread contents of the sampler and the window. -/

namespace Sys2Proof.Spec

open Sys2Proof.Machine

/-- Settles O55: both step, by the invariant they share, and `SamplerAlike.next` says what the two steps leave. -/
theorem unreadSamplerContentsStayHidden : Obligations.UnreadSamplerContentsStayHidden := by
  unfold Obligations.UnreadSamplerContentsStayHidden
  intro a b t ha h hstep
  rw [ha.step_eq] at hstep
  cases hstep
  have hnext := h.next ha
  refine ⟨_, (h.blockInv ha).step_eq, hnext, ?_⟩
  rw [hnext.rest]
  exact ⟨rfl, rfl, rfl⟩

end Sys2Proof.Spec
end

section
/-! SUPPORT. O7: the decoder and the encoder, in both directions. -/

namespace Sys2Proof.Machine

/-- R63: the four commands are the four words of the port. -/
theorem encode_decodeHcmd (w : HcmdWord) : encode (decodeHcmd w) = .hcmd w := by
  revert w; decide

/-- R68, R69: a UOP word that decodes is its operation's word; no bit of it is dropped. -/
theorem encode_of_decodeUop {w : UopWord} {i : Instr} (h : decodeUop w = some i) : encode i = .uop w := by
  have all : ∀ w : UopWord, ((decodeUop w).all fun i => decide (encode i = .uop w)) = true := by decide +revert
  have hw := all w
  rw [h] at hw
  simpa using hw

/-- R65: only a TAKE can name a wire that is none. -/
theorem wellFormed_of_format {i : Instr} (n : Nat) (h : i.format ≠ .port) : i.wellFormed n = true := by
  cases i with
  | take k => exact absurd rfl h
  | _ => rfl

/-- R61: a well-formed operation is what its word decodes to. -/
theorem decode_encode {n : Nat} {i : Instr} (h : i.wellFormed n = true) : decode n (encode i) = .op i := by
  cases hf : i.format with
  | uop =>
    obtain ⟨w, hw, hd⟩ := encode_uop hf
    rw [hw, decode, hd]
  | hcmd =>
    cases i with
    | nop | start | stop | hrsv => rfl
    | _ => cases hf
  | port =>
    cases i with
    | take k =>
      have hk : k < n := of_decide_eq_true h
      simp [encode, decode, hk]
    | readState => rfl
    | _ => cases hf

/-- R61, R76: a word that decodes to an operation is the word of that operation, which is well formed. -/
theorem encode_of_decode {n : Nat} {w : PortWord} {i : Instr} (h : decode n w = .op i) :
    i.wellFormed n = true ∧ encode i = w := by
  cases w with
  | hcmd w =>
    obtain rfl := Decoded.op.inj h
    exact ⟨wellFormed_of_format n (by simp [(decodeHcmd_phase w).2.2]), encode_decodeHcmd w⟩
  | take k strobe =>
    simp only [decode] at h
    split_ifs at h with hk hs
    obtain rfl := Decoded.op.inj h
    exact ⟨decide_eq_true hk, by rw [hs]; rfl⟩
  | stateOut =>
    obtain rfl := Decoded.op.inj h
    exact ⟨rfl, rfl⟩
  | uop w =>
    simp only [decode] at h
    split at h
    · next j hj =>
      obtain rfl := Decoded.op.inj h
      exact ⟨wellFormed_of_format n (by simp [decodeUop_format hj]), encode_of_decodeUop hj⟩
    · cases h

/-- Settles O7: one lemma for each direction. -/
theorem decodeAndEncodeAgree : Obligations.DecodeAndEncodeAgree := by
  unfold Obligations.DecodeAndEncodeAgree
  exact ⟨fun _ _ => decode_encode, fun _ _ _ => encode_of_decode⟩

end Sys2Proof.Machine
end

section
/-! SUPPORT. O18: the ticks of the cycles that follow a START. -/

namespace Sys2Proof.Machine

open Sys2Proof.Spec

/-! ### Runs of the composed block -/

/-- R133: a run of the composed block answers, however long it is. -/
theorem BlockInv.exists_run {s : State} (h : BlockInv s) (n : Nat) :
    ∃ t : State, Sys2Proof.core.run n s = .next t := by
  induction n with
  | zero => exact ⟨s, rfl⟩
  | succ n ih =>
    obtain ⟨t, hrun⟩ := ih
    exact ⟨_, run_append_step hrun (h.run hrun).step_eq⟩

/-- A run of `m + n` ticks is a run of `m` and a run of `n`. -/
theorem run_add {m n : Nat} {s t : State} (h : Sys2Proof.core.run m s = .next t) :
    Sys2Proof.core.run (m + n) s = Sys2Proof.core.run n t := by
  induction n with
  | zero => exact h
  | succ n ih => rw [← Nat.add_assoc, run_succ_last, ih, run_succ_last]

@[simp] theorem tick118_tick (us : List Instr) (s : State) : (tick118 us s).tick = s.tick + 1 := rfl
@[simp] theorem tick118_inputs (us : List Instr) (s : State) : (tick118 us s).inputs = s.inputs.tail := rfl

/-- R6: the tick counter counts the ticks of a run, and the run has used up that many inputs. -/
theorem run_tick_inputs {n : Nat} {s t : State} (hrun : Sys2Proof.core.run n s = .next t) :
    t.tick = s.tick + n ∧ t.inputs = s.inputs.drop n := by
  induction n generalizing t with
  | zero => cases hrun; exact ⟨rfl, rfl⟩
  | succ n ih =>
    obtain ⟨v, hv, hstep⟩ := exists_last_step hrun
    obtain ⟨-, -, us, -, rfl⟩ := step_eq_next_iff.1 hstep
    obtain ⟨htick, hinputs⟩ := ih hv
    rw [tick118_tick, tick118_inputs, htick, hinputs, List.tail_drop]
    exact ⟨rfl, rfl⟩

/-! ### No STOP, no exit -/

/-- R113: no STOP lies behind, and none is still to come. -/
def NoStop (s : State) : Prop := s.life ≠ .stopped ∧ ∀ i ∈ s.inputs, i.hcmd ≠ 0b10#2

/-- R113, R119: only a STOP leads to STOPPED. -/
theorem lifeTable_ne_stopped {l : Life} {w : HcmdWord} (hl : l ≠ .stopped) (hw : w ≠ 0b10#2) :
    lifeTable l w ≠ .stopped := by
  revert hw hl
  cases l <;> revert w <;> decide

/-- R113, R119: a state with no STOP leads to one, and does not exit. -/
theorem NoStop.life_tick {s : State} (h : NoStop s) : lifeTable s.life (curIn s).hcmd ≠ .stopped :=
  lifeTable_ne_stopped h.1 (curIn_of_inputs h.2 (by decide))

/-- R113: a step keeps it, and so does a run. -/
theorem NoStop.step {s t : State} (h : NoStop s) (hstep : step s = .next t) : NoStop t := by
  obtain ⟨-, -, us, -, rfl⟩ := step_eq_next_iff.1 hstep
  exact ⟨h.life_tick, fun i hi => h.2 i (List.mem_of_mem_tail hi)⟩

theorem NoStop.run {n : Nat} {s t : State} (h : NoStop s) (hrun : Sys2Proof.core.run n s = .next t) : NoStop t :=
  run_keeps (fun _ _ => NoStop.step) h hrun

/-- R119: a composed block that no STOP has reached has not exited. -/
theorem NoStop.loop_ne_exited {s : State} (h : NoStop s) (hinv : BlockInv s) : s.loop ≠ .exited :=
  fun hx => h.1 (hinv.exited hx)

/-- R119: once the lifecycle has begun, the loop is active until it exits. -/
theorem BlockInv.active_of_begun {s : State} (h : BlockInv s) (hlife : s.life ≠ .idle) (hx : s.loop ≠ .exited) :
    s.loop = .active := by
  cases hl : s.loop with
  | waiting => exact absurd (h.waiting hl) hlife
  | active => rfl
  | exited => exact absurd hl hx

/-- R117, R122: the tick after an accepted START is a top of a running cycle. -/
theorem BlockInv.first_top {s : State} (h : BlockInv s) (hs : startAccepted s) :
    ∃ t, step s = .next t ∧ BlockInv t ∧ t.loop = .active ∧ t.p = 0 ∧ t.life ≠ .idle := by
  have hinv := blockInv_tick118 h
  have hact : (tick118 (composedUops s) s).loop = .active := by rw [tick118_loop, if_pos hs]
  exact ⟨_, h.step_eq, hinv, hact, by rw [tick118_p, if_pos hs], hinv.active hact⟩

/-- Settles O18: START leads to a top, from which the position counts the ticks as long as the loop is active. -/
theorem cycleTimingFromStart : Obligations.CycleTimingFromStart := by
  unfold Obligations.CycleTimingFromStart
  intro s c p h hs hp
  obtain ⟨v, hstep, hv, hact, htop, hlife⟩ := h.first_top hs
  have hfirst : Sys2Proof.core.run 1 s = .next v := run_append_step (run_zero s) hstep
  obtain ⟨t, hrun⟩ := hv.exists_run (c * s.cfg.pollInterval + p)
  have hwhole : Sys2Proof.core.run (1 + c * s.cfg.pollInterval + p) s = .next t := by
    rw [Nat.add_assoc, run_add hfirst, hrun]
  refine ⟨t, hwhole, by rw [(run_tick_inputs hwhole).1]; ring, fun hx => ?_, fun hstop => ?_⟩
  · have hloop := (hv.run hrun).active_of_begun (life_ne_idle_run hlife hrun) hx
    refine ⟨hloop, ?_⟩
    rw [position_of_run hv hact htop hrun hloop, run_cfg hfirst, Nat.mul_add_mod_self_right, Nat.mod_eq_of_lt hp]
  · have hno : NoStop s := ⟨by simp [hs.2], hstop⟩
    exact (hno.run hwhole).loop_ne_exited (h.run hwhole)

end Sys2Proof.Machine
end

section
/-! SUPPORT. The count of the U_ACCEPTs by the cycles behind: O48 from a START, and O49, O56, O57 from construction. -/

namespace Sys2Proof.Machine

open Sys2Proof.Spec

/-! ### The count in one tick -/

/-- R104: in the cycle with the number `w`, `vote_ctr` counts the U_ACCEPTs of the cycles behind and of this one. -/
def CountsCycle (w : Nat) (s : State) : Prop :=
  s.voteCtr.val = (if s.p ≤ s.cfg.acceptPos then w else w + 1) % 3

/-- R99: the counter goes on modulo 3. -/
theorem voteNext_mod (c : Fin 3) : (voteNext c).val = (c.val + 1) % 3 := by
  revert c; decide

/-- R104: outside a cycle no tick counts. -/
theorem voteCtr_outside_cycle {s : State} (h : s.loop ≠ .active) :
    (tick118 (composedUops s) s).voteCtr = s.voteCtr := by
  rw [tick118_voteCtr, if_neg fun hm => h (mem_issued_composed.1 hm).2.1]

/-- R99, R104: a tick that goes on in its cycle, or into the next, keeps the count. -/
theorem CountsCycle.next {w : Nat} {s : State} (h : CountsCycle w s) (hc : s.cfg.Legal) (ha : s.loop = .active)
    (hp : s.p < s.cfg.pollInterval) (hpos : (tick118 (composedUops s) s).p = (s.p + 1) % s.cfg.pollInterval) :
    ∃ v, v * s.cfg.pollInterval + (tick118 (composedUops s) s).p = w * s.cfg.pollInterval + s.p + 1 ∧
      CountsCycle v (tick118 (composedUops s) s) := by
  have hfit := positions_order hc
  have hacc : .uAccept ∈ issuedUops (composedUops s) s ↔ s.p = s.cfg.acceptPos := by
    rw [uAccept_mem_issued hc]; exact and_iff_right ha
  unfold CountsCycle at h ⊢
  simp only [tick118_voteCtr, tick118_cfg, hacc, hpos]
  rcases Nat.lt_or_ge (s.p + 1) s.cfg.pollInterval with hlt | hge
  · refine ⟨w, by rw [Nat.mod_eq_of_lt hlt]; rfl, ?_⟩
    rw [Nat.mod_eq_of_lt hlt]
    rcases Nat.lt_trichotomy s.p s.cfg.acceptPos with hb | hb | hb
    · rw [if_neg hb.ne, if_pos (by omega), h, if_pos hb.le]
    · rw [if_pos hb, if_neg (by omega), voteNext_mod, h, if_pos hb.le, Nat.mod_add_mod]
    · rw [if_neg hb.ne', if_neg (by omega), h, if_neg (by omega)]
  · have hlast : s.p + 1 = s.cfg.pollInterval := by omega
    refine ⟨w + 1, by rw [hlast, Nat.mod_self, Nat.add_one_mul]; omega, ?_⟩
    rw [hlast, Nat.mod_self, if_neg (by omega), if_pos (Nat.zero_le _), h, if_neg (by omega)]

/-- R32: `last_eval` after the tick. -/
theorem tick118_lastEval (us : List Instr) (s : State) : (tick118 us s).lastEval =
    if .uAccept ∈ issuedUops us s then decide (s.voteCtr = 2) else s.lastEval := by
  simp only [tick118, issuedUops, uopsAfterC, decide_eq_true_eq]

/-! ### From a START (O48) -/

/-- R104, R122: the composed block `n` ticks after the top of its first cycle, with no STOP. -/
structure SinceFirstTop (n : Nat) (s : State) : Prop where
  inv    : BlockInv s
  noStop : NoStop s
  active : s.loop = .active
  cycle  : ∃ w, w * s.cfg.pollInterval + s.p = n ∧ CountsCycle w s

/-- R104, R117: the next tick, which is no exit. -/
theorem SinceFirstTop.next {n : Nat} {s : State} (h : SinceFirstTop n s) :
    SinceFirstTop (n + 1) (tick118 (composedUops s) s) := by
  obtain ⟨w, hn, hcount⟩ := h.cycle
  have hno := h.noStop.step h.inv.step_eq
  obtain ⟨he, -⟩ | ⟨-, -, hact, hpos⟩ | ⟨hna, -⟩ := loop_cases_composed h.inv
  · exact absurd he.2.2 h.noStop.life_tick
  · obtain ⟨v, hv, hcount'⟩ := hcount.next h.inv.legal h.active h.inv.ranges.1 hpos
    exact ⟨blockInv_tick118 h.inv, hno, hact, v, by rw [tick118_cfg, hv, hn], hcount'⟩
  · exact absurd h.active hna

/-- R122: an accepted START leads to the first top. -/
theorem sinceFirstTop_of_start {s : State} (h : BlockInv s) (hs : startAccepted s) (hvote : s.voteCtr = 0)
    (hstop : ∀ i ∈ s.inputs, i.hcmd ≠ 0b10#2) : ∃ t, step s = .next t ∧ SinceFirstTop 0 t := by
  have hno : NoStop s := ⟨by simp [hs.2], hstop⟩
  obtain ⟨t, hstep, hinv, hact, htop, -⟩ := h.first_top hs
  refine ⟨t, hstep, hinv, hno.step hstep, hact, 0, by rw [htop, Nat.zero_mul], ?_⟩
  rw [h.step_eq] at hstep
  cases hstep
  have hkept := voteCtr_outside_cycle (s := s) (by simp [h.waiting_of_startAccepted hs])
  unfold CountsCycle
  rw [hkept, hvote, htop, if_pos (Nat.zero_le _)]
  rfl

theorem SinceFirstTop.run {s : State} (h : SinceFirstTop 0 s) (n : Nat) :
    ∃ t : State, Sys2Proof.core.run n s = .next t ∧ SinceFirstTop n t := by
  induction n with
  | zero => exact ⟨s, rfl, h⟩
  | succ n ih =>
    obtain ⟨t, hrun, ht⟩ := ih
    exact ⟨_, run_append_step hrun ht.inv.step_eq, ht.next⟩

/-- R104, R122: at the ACCEPT position of the cycle with the number `c`. -/
theorem SinceFirstTop.at_accept {c : Nat} {s : State} (h : SinceFirstTop (c * s.cfg.pollInterval + s.cfg.acceptPos) s) :
    s.p = s.cfg.acceptPos ∧ s.voteCtr.val = c % 3 := by
  obtain ⟨w, hn, hcount⟩ := h.cycle
  have hfit := positions_order h.inv.legal
  obtain ⟨rfl, hp⟩ := period_index h.inv.ranges.1 (by omega) hn
  exact ⟨hp, by rw [hcount, if_pos hp.le]⟩

/-- R99, R106: the tick after an ACCEPT position is at the REFRAME position, with `last_eval` from that U_ACCEPT. -/
theorem reframe_after_accept {s : State} (h : BlockInv s) (ha : s.loop = .active) (hp : s.p = s.cfg.acceptPos) :
    let t := tick118 (composedUops s) s
    t.loop = .active ∧ t.p = t.cfg.reframePos ∧ t.lastEval = decide (s.voteCtr = 2) := by
  have hfit := positions_order h.legal
  obtain ⟨hact, hpos⟩ := h.tick118_past_top ha (by omega)
  have hnext : s.cfg.reframePos = s.p + 1 := by rw [hp]; rfl
  refine ⟨hact, ?_, ?_⟩
  · rw [hpos, tick118_cfg, hnext, Nat.mod_eq_of_lt (by omega)]
  · rw [tick118_lastEval, if_pos ((uAccept_mem_issued h.legal).2 ⟨ha, hp⟩)]

/-- R106: the U_REFRAME of a cycle that closed a window writes every slot. -/
theorem slots_after_reframe {s : State} (ha : s.loop = .active) (hp : s.p = s.cfg.reframePos)
    (heval : s.lastEval = true) : ∀ x ∈ (tick118 (composedUops s) s).slots, x = ⟨true, reframe s.stable⟩ := by
  intro x hx
  obtain ⟨n, hn⟩ := List.mem_iff_getElem?.1 hx
  rw [tick118_slots, List.getElem?_mapIdx] at hn
  obtain ⟨y, -, rfl⟩ := Option.map_eq_some_iff.1 hn
  exact if_pos ⟨uReframe_mem_issued.2 ⟨ha, hp⟩, heval⟩

/-- R106, R110: where no window closed, no tick writes a frame. -/
theorem frames_without_eval {us : List Instr} {s : State} (heval : s.lastEval = false) :
    (tick118 us s).slots.map Slot.frame = s.slots.map Slot.frame := by
  rw [tick118_frames, if_neg (by simp [heval])]

/-- Settles O48: START leads to a top, from which the count runs; the U_ACCEPT it finds decides what the U_REFRAME one
tick later does. -/
theorem transmissionCycles : Obligations.TransmissionCycles := by
  unfold Obligations.TransmissionCycles
  intro s c h hs hvote hstop
  obtain ⟨v, hstep, hv⟩ := sinceFirstTop_of_start h hs hvote hstop
  have hfirst : Sys2Proof.core.run 1 s = .next v := run_append_step (run_zero s) hstep
  obtain ⟨t, hrun, ht⟩ := hv.run (c * s.cfg.pollInterval + s.cfg.acceptPos)
  have hwhole : Sys2Proof.core.run (1 + c * s.cfg.pollInterval + s.cfg.acceptPos) s = .next t := by
    rw [Nat.add_assoc, run_add hfirst, hrun]
  rw [← run_cfg hwhole] at ht
  obtain ⟨hp, hctr⟩ := ht.at_accept
  obtain ⟨hact, hpos, heval⟩ := reframe_after_accept ht.inv ht.active hp
  have hclose : t.voteCtr = 2 ↔ c % 3 = 2 := by rw [← hctr, Fin.ext_iff]; rfl
  refine ⟨⟨t, hwhole, by rw [hp, run_cfg hwhole], hctr⟩, _, _, run_append_step hwhole ht.inv.step_eq,
    (blockInv_tick118 ht.inv).step_eq, fun hc => ?_, fun hc => ?_⟩
  · exact slots_after_reframe hact hpos (by rw [heval, decide_eq_true (hclose.2 hc)])
  · exact frames_without_eval (by rw [heval, decide_eq_false (mt hclose.1 hc)])

end Sys2Proof.Machine
end

section
/-! SUPPORT. O49, O56, O57: the cold start. -/

namespace Sys2Proof.Spec

open Sys2Proof.Machine

/-- R119: WAITING is only kept, never entered. -/
theorem waiting_before_waiting {s : State} (h : BlockInv s) (hw : (tick118 (composedUops s) s).loop = .waiting) :
    s.loop = .waiting := by
  obtain ⟨-, hl, -⟩ | ⟨-, -, hl, -⟩ | ⟨-, hl, -⟩ := loop_cases_composed h
  · rw [hl] at hw; cases hw
  · rw [hl] at hw; cases hw
  · rw [hl] at hw
    split at hw
    · cases hw
    · exact hw

/-- R168: a tick up to the U_REFRAME that follows leaves the slots empty. -/
theorem ColdStartInv.empty_tick {s : State} (hcold : ColdStartInv s)
    (htick : s.tick ≤ 2 * s.cfg.pollInterval + s.cfg.reframePos) :
    ∀ x ∈ (tick118 (composedUops s) s).slots, x = ⟨false, 0x00000#17⟩ := by
  have hpos := positions s.cfg
  obtain ⟨-, heval⟩ := hcold.kept (by omega)
  have hempty := hcold.empty (by omega)
  intro x hx
  obtain ⟨n, hn⟩ := List.mem_iff_getElem?.1 hx
  rw [tick118_slots, List.getElem?_mapIdx] at hn
  obtain ⟨y, hy, rfl⟩ := Option.map_eq_some_iff.1 hn
  simp [hempty y (List.mem_of_getElem? hy), heval]

section
variable {s : State} (h : BlockInv s) (hcold : ColdStartInv s)
include h hcold

/-- R168: up to the third U_ACCEPT no call closes a window. -/
theorem ColdStartInv.open_window (htick : s.tick ≤ 2 * s.cfg.pollInterval + s.cfg.acceptPos)
    (hacc : .uAccept ∈ issuedUops (composedUops s) s) : s.voteCtr ≠ 2 := by
  intro hvote
  obtain ⟨ha, hp⟩ := (uAccept_mem_issued h.legal).1 hacc
  obtain ⟨w, hw, hctr⟩ := hcold.progress ha
  rw [hvote, if_pos hp.le, Fin.val_two] at hctr
  have htwo : 2 * s.cfg.pollInterval ≤ w * s.cfg.pollInterval := Nat.mul_le_mul_right _ (by omega)
  omega

/-- R168: a tick up to then leaves `stable` and `last_eval` at their reset values. -/
theorem ColdStartInv.kept_tick (htick : s.tick ≤ 2 * s.cfg.pollInterval + s.cfg.acceptPos) :
    (tick118 (composedUops s) s).stable = s.cfg.stableReset ∧ (tick118 (composedUops s) s).lastEval = false := by
  obtain ⟨hstable, heval⟩ := hcold.kept (by omega)
  have hopen := hcold.open_window h htick
  rw [tick118_stable, tick118_lastEval, if_neg fun ⟨hacc, hvote, _⟩ => hopen hacc hvote, hstable, heval]
  refine ⟨rfl, ?_⟩
  split
  · next hacc => exact decide_eq_false (hopen hacc)
  · rfl

/-- R168: the tick counter is past the START tick and the cycles behind, after a tick too. -/
theorem ColdStartInv.progress_tick (hact : (tick118 (composedUops s) s).loop = .active) :
    ∃ w, w * s.cfg.pollInterval + (tick118 (composedUops s) s).p + 1 ≤ s.tick + 1 ∧
      CountsCycle w (tick118 (composedUops s) s) := by
  obtain ⟨-, hl, -⟩ | ⟨ha, -, -, hpos⟩ | ⟨hna, hl, hpos⟩ := loop_cases_composed h
  · rw [hl] at hact; cases hact
  · obtain ⟨w, hw, hctr⟩ := hcold.progress ha
    have hcount : CountsCycle w s := hctr
    obtain ⟨v, hv, hnext⟩ := hcount.next h.legal ha h.ranges.1 hpos
    exact ⟨v, by omega, hnext⟩
  · have hs : startAccepted s := by
      by_contra hs
      rw [hl, if_neg hs] at hact
      exact hna hact
    refine ⟨0, by omega, ?_⟩
    unfold CountsCycle
    rw [voteCtr_outside_cycle hna, hcold.waiting (h.waiting_of_startAccepted hs), hpos, if_pos (Nat.zero_le _)]
    rfl

/-- R168: the `Step` of the composed block keeps every clause. -/
theorem coldStartInv_tick118 : ColdStartInv (tick118 (composedUops s) s) where
  waiting hw := by
    have hbefore := waiting_before_waiting h hw
    rw [voteCtr_outside_cycle (by simp [hbefore]), hcold.waiting hbefore]
  progress hact := hcold.progress_tick h hact
  kept htick := hcold.kept_tick h (by rw [tick118_tick, tick118_cfg] at htick; omega)
  empty htick := hcold.empty_tick (by rw [tick118_tick, tick118_cfg] at htick; omega)

end

/-- Settles O56: a step of the composed block is the spec's `Step`, which keeps each clause. -/
theorem everyStepKeepsTheColdStart : Obligations.EveryStepKeepsTheColdStart := by
  unfold Obligations.EveryStepKeepsTheColdStart
  intro s t h hcold hstep
  rw [h.step_eq] at hstep
  cases hstep
  exact coldStartInv_tick118 h hcold

/-- R151: the initial state of any set begins the cold start. -/
theorem coldStartInv_initial (c : Params) (l : List TickIn) : ColdStartInv { State.initial c with inputs := l } where
  waiting _ := rfl
  progress := nofun
  kept _ := ⟨rfl, rfl⟩
  empty _ _ hx := List.eq_of_mem_replicate hx

/-- Settles O57: what is constructed is in its set's initial state. -/
theorem constructionMeetsTheColdStart : Obligations.ConstructionMeetsTheColdStart := by
  unfold Obligations.ConstructionMeetsTheColdStart
  intro c s l hs
  obtain rfl := eq_initial_of_construct hs
  exact coldStartInv_initial c l

/-- Settles O49: the invariant holds at construction and every step keeps it; the tick counter is the length of the
run. -/
theorem coldStart : Obligations.ColdStart := by
  unfold Obligations.ColdStart
  intro c l n t hc hl hrun
  have hkeeps : BlockInv t ∧ ColdStartInv t := by
    refine run_keeps (P := fun x => BlockInv x ∧ ColdStartInv x) (fun a b ⟨ha, hcold⟩ hstep => ?_)
      ⟨blockInv_initial hc hl, coldStartInv_initial c l⟩ hrun
    exact ⟨everyStepKeepsTheInvariant a b ha hstep, everyStepKeepsTheColdStart a b ha hcold hstep⟩
  have htick : t.tick = n := (run_tick_inputs hrun).1.trans (Nat.zero_add n)
  have hcfg : t.cfg = c := run_cfg hrun
  rw [← htick, ← hcfg]
  exact ⟨fun hn => (hkeeps.2.kept hn).1, hkeeps.2.empty⟩

end Sys2Proof.Spec
end

section
/-! SUPPORT. O35: the frame that one cycle captures. -/

namespace Sys2Proof.Machine

open Sys2Proof.Spec

/-- R94: the level of the line in the ticks still to come, after a run of `n` ticks. -/
theorem dataAt_run {n : Nat} {s t : State} (hrun : Sys2Proof.core.run n s = .next t) (j : Nat) :
    dataAt t j = dataAt s (n + j) := by
  obtain ⟨htick, hinputs⟩ := run_tick_inputs hrun
  have hin : inputAt t j = inputAt s (n + j) := by
    simp only [inputAt, hinputs, List.getD_eq_getElem?_getD, List.getElem?_drop]
  rw [dataAt, dataAt, hin, htick, Nat.add_assoc]

/-- R92, R93: the block `n` ticks after the top `s` of a running cycle: past a bit's first read `smp_a` holds its level,
and past its second the frame's bit holds the AND of both. -/
structure Capturing (s : State) (n : Nat) (t : State) : Prop where
  inv     : BlockInv t
  active  : t.loop = .active
  place   : t.p = n
  between : ∀ k : BitIndex, t.cfg.readA k.toNat < n → n ≤ t.cfg.readB k.toNat →
    t.smpA = dataAt s (t.cfg.readA k.toNat)
  bits    : ∀ k : BitIndex, t.cfg.readB k.toNat < n →
    t.smpFrame.getLsbD k.toNat = (dataAt s (t.cfg.readA k.toNat) && dataAt s (t.cfg.readB k.toNat))

section
variable {s t : State} {n : Nat} (h : Capturing s n t)
include h

/-- R92: a first read leaves its level, and no other first read comes before the second. -/
theorem Capturing.between_tick (hline : readLine t = dataAt s n) {k : BitIndex} (hA : t.cfg.readA k.toNat < n + 1)
    (hB : n + 1 ≤ t.cfg.readB k.toNat) :
    (tick118 (composedUops t) t).smpA = dataAt s (t.cfg.readA k.toNat) := by
  rw [tick118_smpA, hline]
  by_cases hp : n = t.cfg.readA k.toNat
  · have hread := (uSmpa_mem_issued h.inv.legal).2 ⟨h.active, h.place.trans hp⟩
    rw [if_pos ((any_isSmpa _).2 ⟨k, hread⟩), ← hp]
  · have hnone : ¬ (issuedUops (composedUops t) t).any isSmpa = true := by
      rw [any_isSmpa]
      rintro ⟨j, hj⟩
      have hat := ((uSmpa_mem_issued h.inv.legal).1 hj).2
      rw [h.place] at hat
      have hapart := reads_apart h.inv.legal (j := j.toNat) (k := k.toNat) (by omega)
      omega
    rw [if_neg hnone, h.between k (by omega) (by omega)]

/-- R93: a second read writes its bit with the AND, and no other. -/
theorem Capturing.bits_tick (hline : readLine t = dataAt s n) {k : BitIndex} (hB : t.cfg.readB k.toNat < n + 1) :
    (tick118 (composedUops t) t).smpFrame.getLsbD k.toNat =
      (dataAt s (t.cfg.readA k.toNat) && dataAt s (t.cfg.readB k.toNat)) := by
  rw [tick118_smpFrame, hline]
  cases hfind : (issuedUops (composedUops t) t).findSome? smpbIndex with
  | none =>
    have hne : t.p ≠ t.cfg.readB k.toNat := fun he =>
      uSmpb_notMem_of_findSome? hfind ((uSmpb_mem_issued h.inv.legal).2 ⟨h.active, he⟩)
    rw [h.place] at hne
    exact h.bits k (by omega)
  | some j =>
    have hj : n = t.cfg.readB j.toNat :=
      h.place.symm.trans ((uSmpb_mem_issued h.inv.legal).1 (uSmpb_mem_of_findSome? hfind)).2
    rw [Option.elim, setFrameBit_getLsbD _ _ _ _ k.isLt]
    split
    · next hkj =>
      have hAB := (read_order h.inv.legal j.isLt).2.1
      rw [hkj, h.between j (by omega) hj.le, ← hj]
    · next hkj =>
      have hne : n ≠ t.cfg.readB k.toNat := fun he => hkj (readB_inj h.inv.legal _ _ (he.symm.trans hj))
      exact h.bits k (by omega)

/-- R94: one tick of the cycle. -/
theorem Capturing.next (hline : readLine t = dataAt s n) (he : ¬ exitsNow t) (hn : n + 1 < t.cfg.pollInterval) :
    Capturing s (n + 1) (tick118 (composedUops t) t) := by
  obtain ⟨hact, hpos⟩ := (position_succ_iff h.inv hn).2 ⟨h.active, he, h.place⟩
  exact {
    inv := blockInv_tick118 h.inv
    active := hact
    place := hpos
    between := fun _ => h.between_tick hline
    bits := fun _ => h.bits_tick hline }

end

/-- R94: over a cycle, from a top that does not exit. -/
theorem capturing_run {s : State} (h : BlockInv s) (ha : s.loop = .active) (hp : s.p = 0) (he : ¬ exitsNow s) {n : Nat}
    (hn : n < s.cfg.pollInterval) : ∃ t : State, Sys2Proof.core.run n s = .next t ∧ Capturing s n t := by
  induction n with
  | zero =>
    exact ⟨s, rfl, h, ha, hp, fun _ hA => absurd hA (Nat.not_lt_zero _), fun _ hB => absurd hB (Nat.not_lt_zero _)⟩
  | succ n ih =>
    obtain ⟨t, hrun, ht⟩ := ih (by omega)
    have hline : readLine t = dataAt s n := by rw [readLine_eq_dataAt, dataAt_run hrun, Nat.add_zero]
    have hlive : ¬ exitsNow t := by
      rcases Nat.eq_zero_or_pos n with rfl | hpos
      · cases hrun; exact he
      · exact fun hx => by have hplace := ht.place; have htop := hx.2.1; omega
    exact ⟨_, run_append_step hrun ht.inv.step_eq, ht.next hline hlive (by rwa [run_cfg hrun])⟩

/-- Settles O35: at the ACCEPT position every bit's second read lies behind. -/
theorem frameOfACycle : Obligations.FrameOfACycle := by
  unfold Obligations.FrameOfACycle
  intro s h ha hp hlife hcmd
  have hfit := positions_order h.legal
  have he : ¬ exitsNow s := fun ⟨_, _, hx⟩ => lifeTable_ne_stopped (by simp [hlife]) hcmd hx
  obtain ⟨t, hrun, ht⟩ := capturing_run h ha hp he (n := s.cfg.acceptPos) (by omega)
  have hbits : ∀ k < 16, t.smpFrame.getLsbD k = (dataAt s (s.cfg.readA k) && dataAt s (s.cfg.readB k)) := by
    refine forall_lt_16_iff.2 fun k => ?_
    have hread := read_order h.legal k.isLt
    have hk := ht.bits k
    rw [run_cfg hrun] at hk
    exact hk (by omega)
  refine ⟨t, hrun, ht.place, hbits, fun f hf => BitVec.eq_of_getLsbD_eq fun k hk => ?_⟩
  obtain ⟨hA, hB⟩ := hf k hk
  rw [hbits k hk, hA, hB, Bool.and_self]

end Sys2Proof.Machine
end

section
/-! SUPPORT. O36: the ticks in which the level of the line has no effect. -/

namespace Sys2Proof.Machine

open Sys2Proof.Spec

/-- R92, R93: a tick without a read does not look at the line. -/
theorem tick118_withData {us : List Instr} (s : State) (b : Bool) (hA : ∀ k, .uSmpa k ∉ us) (hB : ∀ k, .uSmpb k ∉ us) :
    tick118 us (withData b s) = tick118 us s := by
  have hcur : curIn (withData b s) = { curIn s with data := some b } := rfl
  have hissued : ∀ e : Bool, (∀ k, .uSmpa k ∉ (if e = true then [] else us)) ∧
      ∀ k, .uSmpb k ∉ (if e = true then [] else us) := by
    intro e; cases e
    · exact ⟨hA, hB⟩
    · simp
  simp only [tick118, any_isSmpa, hissued, exists_false, if_false, findSome?_smpbIndex_none (hissued _).2, hcur]
  rfl

/-- R94: a position that is no read issues none. -/
theorem noReads_composedUops {s : State}
    (h : s.loop = .active → ∀ k < 16, s.p ≠ s.cfg.readA k ∧ s.p ≠ s.cfg.readB k) :
    (∀ k, .uSmpa k ∉ composedUops s) ∧ ∀ k, .uSmpb k ∉ composedUops s := by
  simp only [mem_composedUops, mem_sched_iff, reduceCtorEq, false_and, Instr.uSmpa.injEq, Instr.uSmpb.injEq,
    exists_eq_left', or_false, exists_false, false_or]
  exact ⟨fun k ⟨ha, hp⟩ => (h ha k.toNat k.isLt).1 hp, fun k ⟨ha, hp⟩ => (h ha k.toNat k.isLt).2 hp⟩

/-- Settles O36: both steps are the spec's `Step` over the same set, which holds no read. -/
theorem lineIsReadOnlyAtItsPositions : Obligations.LineIsReadOnlyAtItsPositions := by
  unfold Obligations.LineIsReadOnlyAtItsPositions
  intro s b hc hr hb hreads
  obtain ⟨hA, hB⟩ := noReads_composedUops hreads
  rw [stepIsTheTickOfTheSpec s hc hr hb, stepIsTheTickOfTheSpec (withData b s) hc hr hb]
  exact congrArg Host.Outcome.next (tick118_withData s b hA hB)

end Sys2Proof.Machine
end

section
/-! SUPPORT. O37: a line that is held high. -/

namespace Sys2Proof.Machine

open Sys2Proof.Spec

/-- R97: the sampler and `stable` have seen a high line alone. -/
structure AllOnes (s : State) : Prop where
  smpA     : s.smpA = true
  smpFrame : s.smpFrame = 0xFFFF#16
  stable   : s.stable = 0xFFFF#16

/-- R93: a bit of an all-ones frame that is written with 1 leaves all ones. -/
theorem setFrameBit_allOnes (k : BitIndex) : setFrameBit 0xFFFF#16 k true = 0xFFFF#16 := by
  revert k; decide

/-- R92, R93, R99: a tick with a high line keeps that, whatever its micro-operations. -/
theorem AllOnes.next {us : List Instr} {s : State} (h : AllOnes s) (hline : readLine s = true) :
    AllOnes (tick118 us s) where
  smpA := by rw [tick118_smpA, hline, h.smpA, ite_self]
  smpFrame := by
    rw [tick118_smpFrame, hline, h.smpA, h.smpFrame]
    cases (issuedUops us s).findSome? smpbIndex with
    | none => rfl
    | some k => exact setFrameBit_allOnes k
  stable := by rw [tick118_stable, h.smpFrame, h.stable, ite_self]

/-- R16: the level that the inputs name. -/
theorem readLine_of_inputs {s : State} {b : Bool} (hne : s.inputs ≠ []) (h : ∀ i ∈ s.inputs, i.data = some b) :
    readLine s = b := by
  obtain ⟨i, is, hi⟩ := List.exists_cons_of_ne_nil hne
  have hdata : i.data = some b := h i (by simp [hi])
  simp only [readLine, curIn, hi, dataLevel, hdata]

/-- R97: over a run for whose ticks the inputs name a high line. -/
theorem AllOnes.run {n : Nat} {s t : State} (h : AllOnes s) (hdata : ∀ i ∈ s.inputs, i.data = some true)
    (hn : n ≤ s.inputs.length) (hrun : Sys2Proof.core.run n s = .next t) : AllOnes t := by
  induction n generalizing t with
  | zero => cases hrun; exact h
  | succ n ih =>
    obtain ⟨v, hv, hstep⟩ := exists_last_step hrun
    have hinputs := (run_tick_inputs hv).2
    have hline : readLine v = true := readLine_of_inputs
      (by rw [hinputs, ne_eq, List.drop_eq_nil_iff]; omega)
      (by rw [hinputs]; exact fun i hi => hdata i (List.mem_of_mem_drop hi))
    obtain ⟨-, -, us, -, rfl⟩ := step_eq_next_iff.1 hstep
    exact (ih (by omega) hv).next hline

/-- Settles O37: construction leaves all ones, and a run keeps them. -/
theorem stuckHighLineHoldsAllOnes : Obligations.StuckHighLineHoldsAllOnes := by
  unfold Obligations.StuckHighLineHoldsAllOnes
  intro c l n t _ hreset _ hdata hn hrun
  have hstart : AllOnes { State.initial c with inputs := l } := ⟨rfl, rfl, hreset⟩
  have ht := hstart.run hdata hn hrun
  exact ⟨ht.smpFrame, ht.stable⟩

end Sys2Proof.Machine
end

section
/-! SUPPORT. O47: the slots behind `stable`. -/

namespace Sys2Proof.Machine

open Sys2Proof.Spec

/-- R104, R160: a closing U_ACCEPT begins the count of the next window, whether or not it changed `stable`. -/
theorem sinceUpdate_of_close {s : State} (h : BlockInv s) (ha : s.loop = .active) (hp : s.p = s.cfg.acceptPos)
    (hvote : s.voteCtr = 2) :
    SinceUpdate (tick118 (composedUops s) s).stable 0 (tick118 (composedUops s) s) := by
  refine ⟨blockInv_tick118 h, lifeTable_ne_idle (h.active ha) _, rfl, fun hact => ?_⟩
  obtain ⟨-, hpos⟩ := active_before_active h (h.active ha) h.step_eq hact
  refine ⟨by rw [hpos, hp]; rfl, ?_⟩
  rw [tick118_voteCtr, if_pos ((uAccept_mem_issued h.legal).2 ⟨ha, hp⟩), hvote, Nat.zero_div]
  rfl

/-- R116: an ACCEPT position is no REFRAME position, so its tick leaves every frame. -/
theorem frames_at_accept {s : State} (hp : s.p = s.cfg.acceptPos) :
    (tick118 (composedUops s) s).slots.map Slot.frame = s.slots.map Slot.frame := by
  have hnext : s.cfg.reframePos = s.cfg.acceptPos + 1 := rfl
  rw [tick118_frames, if_neg fun ⟨hm, _⟩ => by have hat := (uReframe_mem_issued.1 hm).2; omega]

/-- R106: a tick that finds every slot at `Reframe(stable)` leaves them there: a write repeats the frame. -/
theorem frames_tick118 {us : List Instr} {s : State} {v : Word16} (hstable : s.stable = v)
    (h : ∀ x ∈ s.slots, x.frame = reframe v) : ∀ x ∈ (tick118 us s).slots, x.frame = reframe v := by
  rcases frame_of_tick118 us s with hw | hk
  · exact hstable ▸ hw
  · intro x hx
    obtain ⟨y, hy, hf⟩ := hk x hx
    rw [← hf, h y hy]

/-- R106: over a run in which `stable` stays the same. -/
theorem frames_run {n : Nat} {s t : State} {v : Word16} (h : ∀ x ∈ s.slots, x.frame = reframe v)
    (hstable : ∀ j < n, ∀ u : State, Sys2Proof.core.run j s = .next u → u.stable = v)
    (hrun : Sys2Proof.core.run n s = .next t) : ∀ x ∈ t.slots, x.frame = reframe v := by
  induction n generalizing t with
  | zero => cases hrun; exact h
  | succ n ih =>
    obtain ⟨u, hu, hstep⟩ := exists_last_step hrun
    obtain ⟨-, -, us, -, rfl⟩ := step_eq_next_iff.1 hstep
    exact frames_tick118 (hstable n (by omega) u hu) (ih (fun j hj => hstable j (by omega)) hu)

/-- R58: in the tick after `n` with `stable` the same up to it, the outputs show that one and its frames. -/
theorem outputs_follow_stable {s : State} (h : BlockInv s) {v : Word16} (hslots : ∀ x ∈ s.slots, x.frame = reframe v)
    {n : Nat} (hstable : ∀ j ≤ n, ∀ u : State, Sys2Proof.core.run j s = .next u → u.stable = v) :
    ∃ t w : State, Sys2Proof.core.run n s = .next t ∧ step t = .next w ∧ w.out.stateOut = v ∧
      ∀ d ∈ w.out.txData, d = reframe w.out.stateOut := by
  obtain ⟨t, hrun⟩ := h.exists_run n
  have hstep := (h.run hrun).step_eq
  obtain ⟨hout, -, -, -, hdata⟩ := registeredOutputs t _ hstep
  rw [hstable n le_rfl t hrun] at hout
  refine ⟨t, _, hrun, hstep, hout, ?_⟩
  rw [hdata, hout, List.forall_mem_map]
  exact frames_run hslots (fun j hj => hstable j hj.le) hrun

/-- Settles O47: the closing U_ACCEPT and the U_REFRAME after it fill the slots, and until three cycles have passed the
next closing U_ACCEPT has not come. -/
theorem slotsFollowStableByOneTick : Obligations.SlotsFollowStableByOneTick := by
  unfold Obligations.SlotsFollowStableByOneTick
  intro s h ha hp hvote
  have hsince := sinceUpdate_of_close h ha hp hvote
  obtain ⟨hact, hpos, heval⟩ := reframe_after_accept h ha hp
  have hold := frames_at_accept hp
  have hstep := h.step_eq
  generalize tick118 (composedUops s) s = t at hsince hact hpos heval hold hstep
  have hslots := slots_after_reframe hact hpos (by rw [heval, hvote]; rfl)
  have hstep' := hsince.inv.step_eq
  generalize tick118 (composedUops t) t = u at hslots hstep'
  obtain ⟨hout, -⟩ := registeredOutputs s t hstep
  obtain ⟨hout', -, -, -, hdata'⟩ := registeredOutputs t u hstep'
  refine ⟨t, u, hstep, hstep', hout, hout', hdata'.trans hold, hslots, fun n hn => ?_⟩
  refine outputs_follow_stable (everyStepKeepsTheInvariant t u hsince.inv hstep')
    (fun x hx => by rw [hslots x hx]) ?_
  rcases hn with hshort | hsame
  · intro j hj v hv
    have hrun : Sys2Proof.core.run (j + 1) t = .next v := by rw [run_succ, hstep']; exact hv
    have hcfg : t.cfg = s.cfg := run_cfg (n := 1) (run_append_step (run_zero s) hstep)
    exact (hsince.run (by rw [hcfg]; omega) hrun).kept
  · exact hsame

end Sys2Proof.Machine
end

section
/-! SUPPORT. O8, O9: the UOP words that a tick refuses. -/

namespace Sys2Proof.Machine

/-- R69: the UOP words that are none. -/
theorem decodeUop_eq_none_iff (w : UopWord) : decodeUop w = none ↔
    9 ≤ (uopField w).toNat ∨ ((uopField w).toNat ∈ [0, 1, 2, 3, 4, 7, 8] ∧ uopIndex w ≠ 0#4) := by
  revert w; decide

/-- R69: the decoder calls a UOP word illegal exactly where it is none. -/
theorem decode_uop_illegal_iff (n : Nat) (w : UopWord) : decode n (.uop w) = .illegalUop w ↔ decodeUop w = none := by
  cases h : decodeUop w <;> simp [decode, h]

/-- R13, R41: a legal state in range runs its tick. -/
theorem step_eq_tickOnce {s : State} (hc : s.cfg.Legal) (hr : RangesOk s) : step s = tickOnce s := by
  obtain ⟨hn, -⟩ | ⟨-, hn, -⟩ | ⟨-, -, hs⟩ := step_cases s
  · exact absurd hc hn
  · exact absurd hr hn
  · exact hs

/-- Settles O8: the table of R69; the schedule's operations are encoded by R68; the first illegal word ends the
decoding, before any check for a clash. -/
theorem illegalUopWordsAreRefused : Obligations.IllegalUopWordsAreRefused := by
  unfold Obligations.IllegalUopWordsAreRefused
  refine ⟨fun n w => (decode_uop_illegal_iff n w).trans (decodeUop_eq_none_iff w),
    fun c p i hi => encode_uop (sched_format i hi), fun s ws hc hr hb hbad => ?_⟩
  obtain ⟨w, hw, hnone, herr⟩ := decodeWords_illegal s.cfg.nPorts ws hbad
  have hwords : uopWords s = ws.map PortWord.uop := by simp only [uopWords, hb]
  exact ⟨w, hw, hnone, by rw [step_eq_tickOnce hc hr, tickOnce_of_error (by rw [hwords, herr])]⟩

/-- R68: every micro-operation is issued to a unit. -/
theorem exists_blockUnit {i : Instr} (h : i.format = .uop) : ∃ u, i.blockUnit = some u := by
  cases i with
  | uWait | uTop | uLatch | uClk16 | uClk17 | uSmpa k | uSmpb k | uAccept | uReframe => exact ⟨_, rfl⟩
  | _ => cases h

/-- R70: two places of a set that are issued to one unit are a clash, a word given twice among them. -/
theorem unitClash_of_sublist {us : List Instr} {i j : Instr} {u : BlockUnit} (h : List.Sublist [i, j] us)
    (hi : i.blockUnit = some u) (hj : j.blockUnit = some u) : unitClash us = true := by
  have htwo : 2 ≤ (us.filter fun x => decide (x.blockUnit = some u)).length := by
    have hlen := (h.filter fun x => decide (x.blockUnit = some u)).length_le
    simpa [hi, hj] using hlen
  exact List.any_eq_true.2 ⟨u, by cases u <;> decide, decide_eq_true htwo⟩

/-- Settles O9: the words decode to a set that clashes. -/
theorem twoUopsForOneUnitAreRefused : Obligations.TwoUopsForOneUnitAreRefused := by
  unfold Obligations.TwoUopsForOneUnitAreRefused
  intro s ws us i j hc hr hb hdec hsub hunit
  obtain ⟨u, hu⟩ := exists_blockUnit (uop_format_of_decode hdec i (hsub.subset (by simp)))
  have hclash := unitClash_of_sublist hsub hu (hunit ▸ hu)
  rw [step_eq_tickOnce hc hr, tickOnce_of_clash (uopWords_bench hb hdec) hclash]

end Sys2Proof.Machine
end

section
/-! SUPPORT. O10, O11, O13: a step runs the operations that its words decode to. -/

namespace Sys2Proof.Machine

open Sys2Proof.Spec

/-- Settles O10: decoding and the check for a clash are all that stands before the phases. -/
theorem stepRunsTheDecodedWords : Obligations.StepRunsTheDecodedWords := by
  unfold Obligations.StepRunsTheDecodedWords
  intro s ops hc hr hdec hclash
  simp only [step_eq_tickOnce hc hr, tickOnce, hdec, hclash, Bool.false_eq_true, if_false]

/-- Settles O13: the phases of a tick whose set is the bench's make the spec's `Step`. -/
theorem benchTickIsTheTickOfTheSpec : Obligations.BenchTickIsTheTickOfTheSpec := by
  unfold Obligations.BenchTickIsTheTickOfTheSpec
  intro s ws us hc hr hb hdec hclash
  exact step_eq_tick118 hc hr (.inr ⟨ws, hb, hdec, hclash⟩)

/-! ### The tick of a placed word -/

/-- The operations of a tick that carries the word of `i` and nothing else. -/
def placedOps (i : Instr) : List Instr :=
  match i.format with
  | .hcmd => [i, .readState]
  | .port => if i = .readState then [.nop, .readState] else [.nop, .readState, i]
  | .uop => [.nop, .readState, i]

/-- R7: the operations of the phases T, R, F and S neither read nor write the lines. -/
theorem exec_driveLines {i : Instr} (h : i.phase = .t ∨ i.phase = .r ∨ i.phase = .f ∨ i.phase = .s) (s : State) :
    exec i (driveLines s) = andThen (exec i s) fun t => .next (driveLines t) := by
  cases i with
  | take n =>
    simp only [exec, execTake, driveLines_slots]
    cases s.slots[n]? with
    | none => rfl
    | some x =>
      simp only [andThen_next, takeSlot]
      split <;> rfl
  | uSmpa k => rfl
  | uSmpb k => rfl
  | uAccept => rw [execUAccept_eq, execUAccept_eq]; rfl
  | uReframe =>
    cases heval : s.lastEval
    · simp only [exec, execUReframe, andThen_next, driveLines_lastEval, heval, Bool.false_eq_true, if_false]
    · simp only [exec, execUReframe, andThen_next, driveLines_lastEval, heval, if_true]
      rfl
  | _ => simp [Instr.phase] at h

theorem andThen_assoc (o : Host.Outcome State Fault Refusal) (f g : State → Host.Outcome State Fault Refusal) :
    andThen (andThen o f) g = andThen o fun s => andThen (f s) g := by
  cases o <;> rfl

/-- R118: READ_STATE runs in every tick, and phase H has the tick's command. -/
theorem phaseOps_placedOps_ports (i : Instr) : phaseOps .read (placedOps i) = [.readState] ∧
    phaseOps .h (placedOps i) = if i.phase = .h then [i] else [.nop] := by
  cases i <;> exact ⟨rfl, rfl⟩

/-- R7: of the phases after H, only the operation's own has one. -/
theorem phaseOps_placedOps (i : Instr) {ph : Phase} (hr : ph ≠ .read) (hh : ph ≠ .h) :
    phaseOps ph (placedOps i) = if i.phase = ph then [i] else [] := by
  cases i <;> cases ph <;> simp_all [placedOps, phaseOps, Instr.format, Instr.phase]

/-- R114: an exit takes none away but the operation itself, and that not where its phase lies behind. -/
theorem phaseOps_live_placedOps {i : Instr} {ph : Phase} (e : Bool) (hr : ph ≠ .read) (hh : ph ≠ .h)
    (he : e = true → i.phase ≠ ph) :
    phaseOps ph (liveOps e (placedOps i)) = if i.phase = ph then [i] else [] := by
  have hall := phaseOps_placedOps i hr hh
  cases e with
  | false => exact hall
  | true =>
    rw [if_neg (he rfl)] at hall ⊢
    refine List.filter_eq_nil_iff.2 fun j hj hp => ?_
    have hmem : j ∈ phaseOps ph (placedOps i) := List.mem_filter.2 ⟨List.mem_of_mem_filter hj, hp⟩
    rw [hall] at hmem
    cases hmem

/-- R118: the phases over a single operation are its `exec`, between the start of the tick and the advance. -/
theorem runTick_placedOps (i : Instr) (s : State) :
    runTick (placedOps i) s = andThen (exec i (openTick s)) fun t => .next (closeTick t) := by
  obtain ⟨hread, hh⟩ := phaseOps_placedOps_ports i
  have hopen : exec .readState (beginTick s) = .next (openTick s) := rfl
  have hnop : exec .nop (openTick s) = .next (openTick s) := rfl
  have hexit : (openTick s).exitReq = false := rfl
  unfold runTick
  cases hi : i.phase with
  | read =>
    have hi' : i = .readState := by cases i <;> simp [Instr.phase] at hi ⊢
    subst hi'
    rfl
  | h | c | p =>
    simp [hread, hh, hopen, hnop, hexit, phaseOps_placedOps, phaseOps_live_placedOps, hi, closeTick]
  | t | r | f | s =>
    simp [hread, hh, hopen, hnop, hexit, phaseOps_placedOps, phaseOps_live_placedOps, hi, closeTick, exec_driveLines,
      andThen_assoc]

/-- R65: a tick that names no strobe has no TAKE. -/
theorem takeOps_of_no_strobe {s : State} (h : (curIn s).takes = []) : takeOps s = [] := by
  simp [takeOps, takeStrobe, h]

/-- R65: a tick that names port 0's strobe alone has its TAKE. -/
theorem takeOps_of_strobe_zero {s : State} (h : (curIn s).takes = [true]) (hn : 1 ≤ s.cfg.nPorts) :
    takeOps s = [.take 0] := by
  obtain ⟨n, hn⟩ := Nat.exists_eq_add_of_le' hn
  simp [takeOps, takeStrobe, h, hn, List.range_succ_eq_map, List.filter_map, Function.comp_def]

/-- R61: what the words of a tick without micro-operations decode to. -/
theorem decodeWords_ports {s : State} (hb : (curIn s).bench = none) (hl : s.loop ≠ .active) :
    decodeWords s.cfg.nPorts (fetchWords s) = .ok (decodeHcmd (curIn s).hcmd :: .readState :: takeOps s) := by
  have hus := uopWords_composed hb
  rw [if_neg hl] at hus
  rw [decodeWords_fetch hus, List.append_nil]

/-- R63: the word of a command decodes to it. -/
theorem encode_hcmd {i : Instr} (h : i.format = .hcmd) : ∃ w, encode i = .hcmd w ∧ decodeHcmd w = i := by
  cases i with
  | nop | start | stop | hrsv => exact ⟨_, rfl, rfl⟩
  | _ => cases h

/-- R61: a table word that decodes stands on a port, whose decoder reads it in a block with one port. -/
theorem tablePort_of_decodeTableWord {nbits w : Nat} {i : Instr} (h : decodeTableWord nbits w = some i) :
    ∃ pw, tablePort nbits w = some pw ∧ decode 1 pw = .op i := by
  unfold decodeTableWord at h
  cases hp : tablePort nbits w with
  | none => simp [hp] at h
  | some pw =>
    have hone : Params.default.nPorts = 1 := rfl
    refine ⟨pw, rfl, ?_⟩
    cases hd : decode 1 pw <;> simp_all

/-- R61: the words of a tick that carries the word of `i` decode to these operations. -/
theorem decodeWords_placed {s : State} {i : Instr} (hi : i.wellFormed 1 = true) (hn : 1 ≤ s.cfg.nPorts)
    (hl : i.format = .uop ∨ s.loop ≠ .active) :
    decodeWords s.cfg.nPorts (fetchWords (placeWord (encode i) s)) = .ok (placedOps i) := by
  have hports := fun h => decodeWords_ports (s := placeWord (encode i) s) h
  have hnone := takeOps_of_no_strobe (s := placeWord (encode i) s)
  cases hf : i.format with
  | uop =>
    obtain ⟨w, hw, hd⟩ := encode_uop hf
    have hdec := decodeWords_fetch (s := placeWord (encode i) s) (us := [i])
      (uopWords_bench (ws := [w]) (by rw [hw]; rfl) (by simp [hd]))
    rw [hnone (by rw [hw]; rfl)] at hdec
    simpa [placedOps, hf, hw, placeWord, curIn, tickWith, TickIn.quiet, decodeHcmd] using hdec
  | hcmd =>
    obtain ⟨w, hw, rfl⟩ := encode_hcmd hf
    have hdec := hports (by rw [hw]; rfl) (hl.resolve_left (by simp [hf]))
    rw [hnone (by rw [hw]; rfl)] at hdec
    simpa [placedOps, hf, hw, placeWord, curIn, tickWith] using hdec
  | port =>
    have hloop : s.loop ≠ .active := hl.resolve_left (by simp [hf])
    cases i with
    | take k =>
      obtain rfl : k = 0 := by simpa [Instr.wellFormed] using hi
      have hdec := hports rfl hloop
      rw [takeOps_of_strobe_zero (s := placeWord (encode (.take 0)) s) rfl hn] at hdec
      exact hdec
    | readState =>
      have hdec := hports rfl hloop
      rw [hnone rfl] at hdec
      exact hdec
    | _ => cases hf

/-- R63, R70: a single operation clashes with nothing. -/
theorem unitClash_placedOps (i : Instr) : unitClash (placedOps i) = false := by
  cases i <;> rfl

/-- Settles O11: the word is that of its operation, the tick's only one. -/
theorem stepRunsThePlacedWord : Obligations.StepRunsThePlacedWord := by
  unfold Obligations.StepRunsThePlacedWord
  intro s nbits w i hdec hc hr hl
  obtain ⟨pw, hpw, hop⟩ := tablePort_of_decodeTableWord hdec
  obtain ⟨hi, rfl⟩ := encode_of_decode hop
  have hplace : s.withFetchWord nbits w = placeWord (encode i) s := by simp only [State.withFetchWord, hpw]
  obtain ⟨-, -, -, -, -, -, -, hn⟩ := id hc
  rw [hplace, stepRunsTheDecodedWords (placeWord (encode i) s) _ hc hr (decodeWords_placed hi hn hl)
    (unitClash_placedOps i), runTick_placedOps]

end Sys2Proof.Machine
end

section
/-! SUPPORT. O21: a tick after the exit. -/

namespace Sys2Proof.Machine

open Sys2Proof.Spec

/-- R110: where nothing is written, a TAKE clears the valid bit of its port. -/
theorem slots_without_uops (s : State) : (tick118 [] s).slots =
    s.slots.mapIdx fun n x => ⟨x.valid && !takeStrobe (curIn s) n, x.frame⟩ := by
  have hnone : Instr.uReframe ∉ issuedUops [] s := by simp [issuedUops, uopsAfterC]
  rw [tick118_slots]
  congr 1
  funext n x
  rw [if_neg fun hw => hnone hw.1]
  cases x.valid <;> cases takeStrobe (curIn s) n <;> rfl

/-- Settles O21: in EXITED a tick has no micro-operation, no START and no STOP, and the generators rest. -/
theorem afterTheExitOnlyTakeActs : Obligations.AfterTheExitOnlyTakeActs := by
  unfold Obligations.AfterTheExitOnlyTakeActs
  intro s t h hx hstep
  have hna : s.loop ≠ .active := by simp [hx]
  have hset : composedUops s = [] := if_neg hna
  have hlife : s.life = .stopped := h.exited hx
  obtain ⟨hlatch, hclock⟩ := h.quiet hna
  obtain ⟨-, hp, -, hlq, -, hcq, -⟩ := h.ranges
  obtain ⟨hstart, hexit⟩ := h.combClear
  rw [h.step_eq, hset] at hstep
  cases hstep
  refine ⟨?_, ?_, ?_, rfl, slots_without_uops s⟩
  · simp [tick118, hx, hlife, lifeTable_stopped, hlatch, hclock, hp hna, hlq hlatch, hcq hclock, hstart, hexit]
  · simp [tick118, hlatch]
  · simp [tick118, hclock]

end Sys2Proof.Machine
end

section
/-! SUPPORT. O29, O31: the levels of the two lines. -/

namespace Sys2Proof.Machine

open Sys2Proof.Spec

/-- R114: a tick issues no micro-operation that is not in its set. -/
theorem mem_of_mem_issued {us : List Instr} {s : State} {i : Instr} (h : i ∈ issuedUops us s) : i ∈ us := by
  unfold issuedUops uopsAfterC at h
  split at h
  · simp at h
  · exact h

/-- Settles O29: an idle generator without a command stays idle through phase P, and its line shows it. -/
theorem idleLinesRestAtIdleLevels : Obligations.IdleLinesRestAtIdleLevels := by
  unfold Obligations.IdleLinesRestAtIdleLevels
  intro s us t hc hr hus hstep
  rw [step_eq_tick118 hc hr hus] at hstep
  cases hstep
  refine ⟨fun hidle hno => ?_, fun hidle h16 h17 => ?_⟩
  · rw [tick118_latchOut, hidle, decide_eq_false fun hm => hno (mem_of_mem_issued hm), Bool.or_false]
  · have hcmd : ¬ (.uClk16 ∈ issuedUops us s ∨ .uClk17 ∈ issuedUops us s) := fun hm =>
      hm.elim (fun h => h16 (mem_of_mem_issued h)) fun h => h17 (mem_of_mem_issued h)
    simp only [tick118_clockOut, hidle, decide_eq_false hcmd, Bool.or_false]
    rfl

/-- Settles O31: the levels of a tick, as in the table of the edges. -/
theorem lineLevelsByPosition : Obligations.LineLevelsByPosition := by
  unfold Obligations.LineLevelsByPosition
  intro s t h hstep
  rw [step_composed (curIn_bench_of_composed h.composed) hstep]
  have hlatch := latchOut_tick118 h
  have hclock := clockOut_tick118 h
  refine ⟨by rw [Bool.eq_iff_iff, decide_eq_true_iff, hlatch], ?_⟩
  rw [← Bool.not_eq_eq_eq_not, Bool.eq_iff_iff, decide_eq_true_iff, Bool.not_eq_true', hclock]

end Sys2Proof.Machine
end

section
/-! SUPPORT. O30: how long a pulse and a train last. -/

namespace Sys2Proof.Machine

/-! ### The latch pulse (R82, R85) -/

/-- R82, R85: the latch generator `m` ticks into its pulse. -/
def inPulse (m : Nat) (s : State) : State := { s with lgBusy := true, lgQ := m }

theorem startLatch_idle {s : State} (h : s.lgBusy = false) : startLatch s = inPulse 0 s := by
  simp [startLatch_eq, inPulse, h]

/-- R85: the pulse goes on up to its last tick, after which the generator is idle. -/
theorem advanceLatch_inPulse (m : Nat) (s : State) :
    advanceLatch (inPulse m s) =
      if m + 1 = s.cfg.latchWidth then { s with lgBusy := false, lgQ := 0 } else inPulse (m + 1) s := by
  split <;> simp [advanceLatch, inPulse, latchBusyNext, latchTicksNext, *]

theorem iterate_advanceLatch {m : Nat} {s : State} (h : m < s.cfg.latchWidth) :
    advanceLatch^[m] (inPulse 0 s) = inPulse m s := by
  induction m with
  | zero => rfl
  | succ m ih => rw [Function.iterate_succ_apply', ih (by omega), advanceLatch_inPulse, if_neg (by omega)]

theorem iterate_advanceLatch_end {s : State} (h : 1 ≤ s.cfg.latchWidth) :
    advanceLatch^[s.cfg.latchWidth] (inPulse 0 s) = { s with lgBusy := false, lgQ := 0 } := by
  obtain ⟨m, hm⟩ := Nat.exists_eq_add_of_le' h
  rw [hm, Function.iterate_succ_apply', iterate_advanceLatch (by omega), advanceLatch_inPulse, if_pos hm.symm]

/-! ### The clock train (R83, R84, R86) -/

/-- R83, R86: the clock generator `m` ticks into a train of the count `n`. -/
def inTrain (n : PulseCount) (m : Nat) (s : State) : State := { s with cgBusy := true, cgQ := m, cgN := n }

theorem startTrain_idle {s : State} (n : PulseCount) (h : s.cgBusy = false) : startTrain n s = inTrain n 0 s := by
  simp [startTrain_eq, inTrain, h]

/-- R86: the train goes on up to its last tick, after which the generator is idle and the count is kept. -/
theorem advanceClock_inTrain (n : PulseCount) (m : Nat) (s : State) :
    advanceClock (inTrain n m s) =
      if m + 1 = pulseCount n * s.cfg.clkPeriod then { s with cgBusy := false, cgQ := 0, cgN := n }
      else inTrain n (m + 1) s := by
  split <;> simp [advanceClock, inTrain, clockBusyNext, clockTicksNext, *]

theorem iterate_advanceClock {n : PulseCount} {m : Nat} {s : State} (h : m < pulseCount n * s.cfg.clkPeriod) :
    advanceClock^[m] (inTrain n 0 s) = inTrain n m s := by
  induction m with
  | zero => rfl
  | succ m ih => rw [Function.iterate_succ_apply', ih (by omega), advanceClock_inTrain, if_neg (by omega)]

theorem iterate_advanceClock_end {n : PulseCount} {s : State} (h : 1 ≤ pulseCount n * s.cfg.clkPeriod) :
    advanceClock^[pulseCount n * s.cfg.clkPeriod] (inTrain n 0 s) =
      { s with cgBusy := false, cgQ := 0, cgN := n } := by
  obtain ⟨m, hm⟩ := Nat.exists_eq_add_of_le' h
  rw [hm, Function.iterate_succ_apply', iterate_advanceClock (by omega), advanceClock_inTrain, if_pos hm.symm]

/-- R81: in a train the line is low in the low part of the clock period. -/
theorem clockOut_inTrain (n : PulseCount) (m : Nat) (s : State) :
    (driveLines (inTrain n m s)).out.clockOut = false ↔ m % s.cfg.clkPeriod < s.cfg.clkLow := by
  simp [inTrain, clockLevel]

/-- R81: the last tick of a train is high. -/
theorem last_tick_high {c : Params} (hc : c.Legal) (n : PulseCount) :
    ¬ (pulseCount n * c.clkPeriod - 1) % c.clkPeriod < c.clkLow := by
  obtain ⟨-, hlow, hperiod, -⟩ := hc
  obtain ⟨m, hm⟩ := Nat.exists_eq_add_of_le' (pulseCount_pos n)
  rw [hm, Nat.add_one_mul, Nat.add_sub_assoc (by omega), Nat.mul_add_mod_self_right, Nat.mod_eq_of_lt (by omega)]
  omega

/-- Settles O30: both generators count the ticks of their waveforms, up to the last one. -/
theorem pulseAndTrainLast : Obligations.PulseAndTrainLast := by
  unfold Obligations.PulseAndTrainLast
  intro s n hc
  have hperiod : 0 < s.cfg.clkPeriod := Nat.zero_lt_of_lt hc.2.2.1
  have hlen : 1 ≤ pulseCount n * s.cfg.clkPeriod := Nat.mul_pos (pulseCount_pos n) hperiod
  refine ⟨fun hidle => ?_, fun hidle => ?_⟩
  · rw [startLatch_idle hidle, iterate_advanceLatch_end hc.1]
    exact ⟨fun m hm => by rw [iterate_advanceLatch hm]; exact ⟨rfl, rfl⟩, rfl, rfl⟩
  · rw [startTrain_idle n hidle, iterate_advanceClock_end hlen]
    refine ⟨fun m hm => ?_, ?_, rfl, rfl⟩
    · rw [iterate_advanceClock hm]
      exact ⟨rfl, clockOut_inTrain n m s⟩
    · rw [iterate_advanceClock (by omega), ← Bool.not_eq_false, clockOut_inTrain]
      exact last_tick_high hc n

end Sys2Proof.Machine
end

section
/-! SUPPORT. O51, O54: what no tick changes, and what every tick keeps in range. -/

namespace Sys2Proof.Machine

open Sys2Proof.Spec

/-- Settles O51: a step is the spec's `Step`, which copies them; an operation has them in its frame. -/
theorem parametersNeverChange : Obligations.ParametersNeverChange := by
  unfold Obligations.ParametersNeverChange
  refine ⟨fun s t hstep => ?_, fun i s t h => (exec_frame h).1⟩
  obtain ⟨-, -, us, -, rfl⟩ := step_eq_next_iff.1 hstep
  exact tick118_cfg us s

/-- Settles O54: a step answers from a legal state in range alone, and the spec's `Step` keeps to the ranges. -/
theorem everyTickKeepsTheRanges : Obligations.EveryTickKeepsTheRanges := by
  unfold Obligations.EveryTickKeepsTheRanges
  intro s t hstep
  obtain ⟨hc, hr, us, -, rfl⟩ := step_eq_next_iff.1 hstep
  exact ⟨hc, rangesOk_tick118 hc hr, rfl, rfl⟩

end Sys2Proof.Machine
end

section
/-! SUPPORT. O52: the invariant at reset. -/

namespace Sys2Proof.Machine

/-- Settles O52: the reset state is the initial state of the defaults, with no input pending. -/
theorem resetMeetsTheInvariant : Obligations.ResetMeetsTheInvariant := by
  unfold Obligations.ResetMeetsTheInvariant
  exact ⟨blockInv_initial (l := []) default_legal nofun, fun _ _ => blockInv_initial⟩

end Sys2Proof.Machine
end

section
/-! SUPPORT. O4: the states that no step gives a meaning. -/

namespace Sys2Proof.Machine

/-- R41: a legal state outside the ranges is refused. -/
theorem step_refuses_unreachable {s : State} (hc : s.cfg.Legal) (hr : ¬ RangesOk s) :
    step s = .refused .unreachableState := by
  obtain ⟨hn, -⟩ | ⟨-, -, hs⟩ | ⟨-, h, -⟩ := step_cases s
  · exact absurd hc hn
  · exact hs
  · exact absurd h hr

theorem lifeCode_ne_three (l : Life) : lifeCode l ≠ 3#2 := by cases l <;> decide
theorem loopCode_ne_three (l : LoopState) : loopCode l ≠ 3#2 := by cases l <;> decide

/-- Settles O4: each combination breaks one clause of the ranges. -/
theorem unreachableStatesAreRefused : Obligations.UnreachableStatesAreRefused := by
  unfold Obligations.UnreachableStatesAreRefused
  refine ⟨fun s hc hbad => step_refuses_unreachable hc ?_, rfl, rfl, rfl,
    fun l => ⟨lifeCode_ne_three l, lifeOfCode_lifeCode l⟩, fun l => ⟨loopCode_ne_three l, loopOfCode_loopCode l⟩⟩
  rintro ⟨-, hp, -, hlq, hlen, hcq, -⟩
  obtain ⟨hb, hq⟩ | ⟨hb, hq⟩ | ⟨-, hq⟩ | ⟨hq, hl⟩ := hbad
  · exact hq (hlq hb)
  · exact hq (hcq hb)
  · rw [Nat.mul_comm] at hq; omega
  · exact hq (hp hl)

end Sys2Proof.Machine
end

section
/-! SUPPORT. O6: the words of the spec's tables. -/

namespace Sys2Proof.Machine

/-- Settles O6: each word, written out, through the decoder. -/
theorem specWordsDecode : Obligations.SpecWordsDecode := by
  unfold Obligations.SpecWordsDecode
  decide

end Sys2Proof.Machine
end

section
/-! SUPPORT. O14, O23, O28, O33, O44, O50: the effect of each operation, and what it leaves alone. -/

namespace Sys2Proof.Machine

/-! ### Commands and the controller -/

/-- Settles O14: START and STOP look at `life` alone. -/
theorem hostCommandEffects : Obligations.HostCommandEffects := by
  unfold Obligations.HostCommandEffects
  refine fun s => ⟨rfl, rfl, fun h => ?_, fun h => ?_, fun h => ?_, fun h => ?_⟩
  · simp only [exec, execStart, if_pos h]
  · simp only [exec, execStart, if_neg h]
  · simp only [exec, execStop, if_pos h]
  · simp only [exec, execStop, if_neg h]

/-- Settles O23: U_TOP looks at `life` alone. -/
theorem controllerUopEffects : Obligations.ControllerUopEffects := by
  unfold Obligations.ControllerUopEffects
  refine fun s => ⟨rfl, fun h => ?_, fun h => ?_⟩
  · simp only [exec, execUTop, if_pos h]
  · simp only [exec, execUTop, if_neg h]

/-! ### The pulse generator -/

/-- Settles O28: a command looks at its generator's busy flag alone. -/
theorem pulseCommandEffects : Obligations.PulseCommandEffects := by
  unfold Obligations.PulseCommandEffects
  refine fun s => ⟨fun h => ?_, fun h => ?_, fun h => ?_, fun h => ?_, fun h => ?_, fun h => ?_⟩
  · simp only [exec, execULatch, startLatch, if_pos h]
  · simp [exec, execULatch, startLatch, h]
  · simp only [exec, execUClk16, startTrain, if_pos h]
  · simp [exec, execUClk16, startTrain, h]
  · simp only [exec, execUClk17, startTrain, if_pos h]
  · simp [exec, execUClk17, startTrain, h]

/-! ### The sampler -/

/-- Settles O33: a first read is the level of the tick, and a second writes its bit alone. -/
theorem samplerUopEffects : Obligations.SamplerUopEffects := by
  unfold Obligations.SamplerUopEffects
  intro k s
  rw [← readLine_eq_dataAt]
  exact ⟨rfl, _, rfl, rfl, fun j hj => setFrameBit_getLsbD _ _ _ _ hj⟩

/-! ### The ports -/

/-- R110: a TAKE of a valid frame, slot by slot and port by port. -/
theorem exec_take_valid {s : State} {i : Nat} {x : Slot} (hx : s.slots[i]? = some x) (hv : x.valid = true) :
    ∃ t, exec (.take i) s = .next t ∧
      t = { s with slots := t.slots, out := { s.out with handed := t.out.handed } } ∧
      t.slots.length = s.slots.length ∧
      (∀ j : Nat, t.slots[j]? = if j = i then some ⟨false, x.frame⟩ else s.slots[j]?) ∧
      ∀ j : Nat, j < s.out.handed.length →
        t.out.handed[j]? = if j = i then some (some x.frame) else s.out.handed[j]? := by
  refine ⟨takeSlot i x s, execTake_eq hx, ?_, takeSlot_length s i x, takeSlot_slots i x s hx, fun j hj => ?_⟩
  · rw [takeSlot, if_pos hv]
  · simp only [takeSlot_handed, hv, hj, and_true]

/-- R110: a TAKE without a valid frame does nothing. -/
theorem exec_take_invalid {s : State} {i : Nat} {x : Slot} (hx : s.slots[i]? = some x) (hv : x.valid = false) :
    exec (.take i) s = .next s := by
  simp [execTake_eq hx, takeSlot, hv]

/-- R65: a TAKE of a wire the block does not have is refused. -/
theorem exec_take_noSuchPort {s : State} {i : Nat} (h : s.slots.length ≤ i) :
    exec (.take i) s = .refused (.noSuchPort i) := by
  simp [exec, execTake, List.getElem?_eq_none h]

/-- Settles O44: U_REFRAME by `last_eval`, TAKE by the slot it finds, READ_STATE by its definition. -/
theorem portOperationEffects : Obligations.PortOperationEffects := by
  unfold Obligations.PortOperationEffects
  refine fun s => ⟨fun h => ?_, fun h => ?_, fun _ _ => exec_take_valid, fun _ _ => exec_take_invalid,
    fun _ => exec_take_noSuchPort, rfl⟩
  · simp only [exec, execUReframe, if_pos h, writeSlots, List.map_const']
  · simp [exec, execUReframe, h]

/-! ### The column "written by" -/

/-- R110: a TAKE keeps every frame. -/
theorem takeSlot_frames {s : State} {i : Nat} {x : Slot} (hx : s.slots[i]? = some x) :
    (takeSlot i x s).slots.map Slot.frame = s.slots.map Slot.frame := by
  refine List.ext_getElem? fun j => ?_
  rw [List.getElem?_map, List.getElem?_map, takeSlot_slots i x s hx]
  split
  · next hj => rw [hj, hx]; rfl
  · rfl

/-- Settles O50: operation by operation, the elements of its row. -/
theorem writtenByColumn : Obligations.WrittenByColumn := by
  unfold Obligations.WrittenByColumn
  intro i s t h
  obtain ⟨hcfg, hloop, hp, hinputs, htick, -⟩ := exec_frame h
  refine ⟨hcfg, hloop, hp, hinputs, htick, ?_⟩
  cases i with
  | nop | hrsv | readState | uWait | uLatch | uClk16 | uClk17 | uSmpa k | uSmpb k => cases h; simp
  | start => rw [execStart_eq] at h; cases h; simp
  | stop => rw [execStop_eq] at h; cases h; simp
  | uTop => rw [execUTop_eq] at h; cases h; simp
  | uAccept => rw [execUAccept_eq] at h; cases h; simp
  | uReframe =>
    simp only [exec, execUReframe] at h
    cases h
    split <;> simp
  | take n =>
    cases hx : s.slots[n]? with
    | none => rw [exec_take_noSuchPort (List.getElem?_eq_none_iff.1 hx)] at h; cases h
    | some x => rw [execTake_eq hx] at h; cases h; simp [takeSlot_frames hx]

end Sys2Proof.Machine
end
